-- ==== Sys2Proof/Word.lean ====
section
/-! DEFINITION. The word types of the block (00_scope.md R10: a byte is 8 bits, every quantity is unsigned). -/

namespace Sys2Proof

/-- A byte (00_scope.md R10). -/
abbrev Byte := BitVec 8

/-- The operand type `u16` of 30_encoding.md R71. -/
abbrev U16 := BitVec 16

end Sys2Proof
end

