-- ==== Sys2Proof/Config.lean ====
section
/-! DEFINITION. The parameters of an instance (00_scope.md R5 to R9), the instance the reset state carries, and the
free values the spec leaves to the environment and to the schedule. -/

namespace Sys2Proof

/-- `POL_ARB` (00_scope.md R9, 44_polarity_timer.md R186): whether polarity writes are kept out of the select window. -/
inductive PolArb where
  | locked
  | free
  deriving DecidableEq, Repr

/-- `BUS_BITORDER` (00_scope.md R9): "the bus hardware is fixed MSB-first", so there is one value. -/
inductive BitOrder where
  | msbFirst
  deriving DecidableEq, Repr

/-- Which of the spec's two forms of the polarity timer the instance runs: 44_polarity_timer.md R183 or R184. -/
inductive TimerForm where
  | untimed
  | timed
  deriving DecidableEq, Repr

/-- The record `Params` of 00_scope.md R5 to R9. Delays are in microseconds. `BUS_MODE` has no stated values, so it
is a token. `form` is the model's: it chooses between R183 and R184. -/
structure Params where
  width     : Nat
  height    : Nat
  modeWrite : Byte
  modeClear : Byte
  modeNop   : Byte
  tSetup    : Nat
  tHold     : Nat
  tIframe   : Nat
  tPwr      : Nat
  tDisp1    : Nat
  tDisp2    : Nat
  tPol      : Nat
  busClock  : Nat
  busOrder  : BitOrder
  busMode   : Nat
  polArb    : PolArb
  form      : TimerForm
  deriving DecidableEq, Repr

/-- `BPR = WIDTH / 8`, bytes per row (00_scope.md R5). -/
def Params.bpr (p : Params) : Nat := p.width / 8

/-- `FB_LEN = BPR * HEIGHT` (00_scope.md R5). -/
def Params.fbLen (p : Params) : Nat := p.bpr * p.height

/-- The geometry of a legal instance (00_scope.md R5, 92_eei_decisions.md D1, D2). -/
def Params.geometryOk (p : Params) : Bool :=
  decide (8 ≤ p.width) && decide (p.width % 8 = 0) && decide (p.width ≤ 65528)
    && decide (1 ≤ p.height) && decide (p.height ≤ 255)

/-- A legal instance: the geometry of R5, distinct mode bytes (R6), and the stated lower bounds of the three
transaction delays (R7). DESIGN CHOICE (log 28): R8 gives `T_POL` no bound, and a half-period of no time is left out. -/
def Params.legal (p : Params) : Bool :=
  p.geometryOk && decide (p.modeWrite ≠ p.modeClear)
    && decide (3 ≤ p.tSetup) && decide (1 ≤ p.tHold) && decide (1 ≤ p.tIframe) && decide (1 ≤ p.tPol)

/-- The upper figure of the document's bound "clock rate ≤ ~2–4 MHz" (00_scope.md R9), in Hz. The block cannot detect
a violation (70_reset_and_hazards.md R251), so it is no part of `legal`. -/
def Params.busClockInStatedBound (p : Params) : Bool := decide (p.busClock ≤ 4000000)

/-! OPEN parameters of the reset instance (00_scope.md R6, R7, R9): no value is known of any of them. -/

opaque Config.modeWrite : Byte
opaque Config.modeClearDraft : Byte
opaque Config.modeNop : Byte
opaque Config.tPwr : Nat
opaque Config.tDisp1 : Nat
opaque Config.tDisp2 : Nat
opaque Config.busClock : Nat
opaque Config.busMode : Nat

/-- An open byte kept different from `MODE_WRITE`, as 00_scope.md R6 requires: any byte but that one can be it. -/
def Config.modeClear : Byte :=
  if Config.modeClearDraft = Config.modeWrite then ~~~Config.modeClearDraft else Config.modeClearDraft

/-! Free values, each applied to a counter of State so that every use is a fresh one. -/

/-- `env.tx_ok()` is false at this draw (00_scope.md R12, 60_exceptions.md R214): drawn freely. -/
opaque Config.txFails : Nat → Bool

/-- `env.periph_ok()` is false at this draw (60_exceptions.md R211): drawn freely. -/
opaque Config.periphFails : Nat → Bool

/-- The schedule lets the timer move at this draw (10_state.md R35, 93_implementation_defined.md U21). -/
opaque Config.timerMoves : Nat → Bool

/-- What a read of a register number other than 0, 1, 2 returns: the number, then the draw (10_state.md R26, U9). -/
opaque Config.unspecifiedRead : Nat → Nat → BitVec 16

/-- What the 8-bit `ADDR` takes from a requested line that no 8 bits hold, at this draw: the spec does not say (log 27). -/
opaque Config.unstatedAddr : Nat → BitVec 8

/-- The instance the reset state carries: DESIGN CHOICE (log 2) 16 by 4, the spec's example geometry; the defaults of
00_scope.md R7, R8, R9; the OPEN parameters as opaque constants (log 3); the untimed form (log 9). -/
def Config.params : Params where
  width     := 16
  height    := 4
  modeWrite := Config.modeWrite
  modeClear := Config.modeClear
  modeNop   := Config.modeNop
  tSetup    := 3
  tHold     := 1
  tIframe   := 1
  tPwr      := Config.tPwr
  tDisp1    := Config.tDisp1
  tDisp2    := Config.tDisp2
  tPol      := 250000
  busClock  := Config.busClock
  busOrder  := .msbFirst
  busMode   := Config.busMode
  polArb    := .locked
  form      := .untimed

end Sys2Proof
end

