-- ==== Sys2Proof/Machine/State.lean ====
section
/-! DEFINITION. The state of the block as plain data (10_state.md), the reasons a step can stop, and the state after
reset (10_state.md R34). -/

namespace Sys2Proof.Machine

/-- A pin level, and the one-bit polarity state: `0` low, `1` high (10_state.md R22, R23). -/
inductive Level where
  | low
  | high
  deriving DecidableEq, Repr

/-- The three output pins: bus-select, display-enable, polarity (10_state.md R22). -/
inductive Pin where
  | sel
  | disp
  | pol
  deriving DecidableEq, Repr

/-- `PINCFG[p]` and `PIN[p]`; `none` is the spec's `undef`, "never written" (10_state.md R22). -/
structure PinState where
  cfg   : Bool
  level : Option Level
  deriving DecidableEq, Repr

structure Pins where
  sel  : PinState
  disp : PinState
  pol  : PinState
  deriving DecidableEq, Repr

/-- The two buffer spaces (20_memory.md R56), and the values of `SRC_SPACE` (10_state.md R24). -/
inductive Space where
  | lb
  | fb
  deriving DecidableEq, Repr

/-- `KIND`: which sequence is running (10_state.md R24). -/
inductive Kind where
  | write
  | clear
  | init
  deriving DecidableEq, Repr

/-- `PHASE`, the sequencer's position (10_state.md R25). -/
inductive Phase where
  | idle
  | t1 | t2 | t3 | t4a | t4d | t4t | t5 | t6 | t7 | t8
  | i1a | i1b | i1c | i2 | i3 | i4 | i5a | i5b | i5c | i6 | i7 | i8 | i9 | i10
  deriving DecidableEq, Repr

/-- `LIFE` (10_state.md R30). -/
inductive Life where
  | uninit
  | initing
  | ready
  | failed
  deriving DecidableEq, Repr

/-- `LOCK` (10_state.md R31), a function of `KIND` and `PHASE`. -/
inductive Lock where
  | free
  | tx
  deriving DecidableEq, Repr

/-- The alphabet of the output trace (10_state.md R33). -/
inductive Event where
  | cfgOut (p : Pin)
  | pin (p : Pin) (v : Level)
  | busCfg (clock : Nat) (order : BitOrder) (mode : Nat)
  | tx (b : Byte)
  | delay (t : Nat)
  deriving DecidableEq, Repr

/-- The stored `STATUS` fields; `BUSY` and `READY` are functions of `PHASE` and `LIFE` (10_state.md R27). -/
structure Flags where
  initFail : Bool
  txFail   : Bool
  imgErr   : Bool
  drop     : Bool
  ill      : Bool
  deriving DecidableEq, Repr

/-- Which agent moves (00_scope.md R14): `main` is the sequencer while it runs and the command port while it is idle
(20_memory.md R57); `timer` is the polarity timer, in the timed form one microsecond of time (44_polarity_timer.md
R183, R184); `read n` is the host reading register `n` (45_lifecycle.md R200); `reset` is hardware reset (60_exceptions.md
R229, 70_reset_and_hazards.md R240). -/
inductive Turn where
  | main
  | timer
  | read (number : Nat)
  | reset
  deriving DecidableEq, Repr

/-- What one host register read returned. -/
structure RegRead where
  number : Nat
  value  : BitVec 16
  deriving DecidableEq, Repr

/-- What stands outside the block and acts on it (10_state.md R35). The model's own record, no state of the block:
`cmdIn` the bytes written to `CMD` and not yet accepted (10_state.md R28); `turns`, `txOk`, `periphOk` the next choices
of the schedule and the next answers of the environment, free values once a list is empty (logs 5, 6); `draws` the
counter the free values are applied to (log 7); `reads` what the host has read (log 8). -/
structure Outside where
  cmdIn    : List Byte
  turns    : List Turn
  txOk     : List Bool
  periphOk : List Bool
  draws    : Nat
  reads    : List RegRead
  deriving DecidableEq, Repr

/-- The bytes of one buffer: (offset, byte) pairs, offsets rising, none holding the byte an unlisted offset reads as. -/
abbrev Memory := List Host.Cell

/-- What a byte that no command has written reads as: the reset content `0xFF` (10_state.md R20, R21). -/
def Memory.unlisted : Byte := 0xFF

/-- The machine. `params` is the instance (log 1); `waitLeft` the part of the last `Delay` still to run, in the timed
form (log 10); `env` the outside. The rest is 10_state.md, R20 to R33. -/
structure State where
  params    : Params
  lb        : Memory
  fb        : Memory
  pins      : Pins
  polState  : Level
  polRun    : Bool
  polCnt    : Nat
  polPend   : Bool
  kind      : Kind
  addr      : BitVec 8
  linesLeft : BitVec 8
  byteIdx   : BitVec 13
  srcSpace  : Space
  srcPtr    : BitVec 21
  phase     : Phase
  flags     : Flags
  cbuf      : List Byte
  life      : Life
  out       : List Event
  waitLeft  : Nat
  env       : Outside
  deriving DecidableEq, Repr

/-- Where the model stops. Both are safe: no run from reset of a legal instance meets either (log 17). -/
inductive Fault where
  /-- Raised by the buffer operations `memRead` and `memWrite` at an offset outside the buffer. 20_memory.md R56: "No
  command can name an offset outside a buffer". Safe. -/
  | outsideBuffer (sp : Space) (offset : Nat)
  /-- Raised by `seqStep` where `PHASE` is no position of the sequence `KIND` names (10_state.md R25), so no successor
  is given. Safe. -/
  | noSuccessor (kind : Kind) (phase : Phase)
  deriving DecidableEq, Repr

/-- What the model does not admit. -/
inductive Refusal where
  /-- Raised by an arm of `exec` whose instruction has no meaning yet. Safe. -/
  | notModelled (mnemonic : String)
  /-- Raised by `step` on parameters whose geometry is no legal instance (93_implementation_defined.md U14: "refuse").
  Safe. -/
  | illegalInstance
  deriving DecidableEq, Repr

/-- The flags after reset: `STATUS = 0x00` (10_state.md R34). -/
def Flags.reset : Flags := ⟨false, false, false, false, false⟩

/-- The pins after reset: unconfigured, never written (10_state.md R22, R34). -/
def Pins.reset : Pins := ⟨⟨false, none⟩, ⟨false, none⟩, ⟨false, none⟩⟩

/-- The outside before anything has happened: nothing written to `CMD`, every choice and answer still free. -/
def Outside.start : Outside := ⟨[], [], [], [], 0, []⟩

/-- The state hardware reset leaves, for any instance (10_state.md R34). `KIND` to `SRC_PTR` are unspecified there; the
values here are DESIGN CHOICE (log 4; R24: "a model may reset them to zero"). -/
def State.resetWith (p : Params) (o : Outside) : State where
  params    := p
  lb        := []
  fb        := []
  pins      := Pins.reset
  polState  := .low
  polRun    := false
  polCnt    := p.tPol
  polPend   := false
  kind      := .write
  addr      := 0
  linesLeft := 0
  byteIdx   := 0
  srcSpace  := .lb
  srcPtr    := 0
  phase     := .idle
  flags     := Flags.reset
  cbuf      := []
  life      := .uninit
  out       := []
  waitLeft  := 0
  env       := o

/-- The machine right after reset (10_state.md R34), on the instance `Config.params`. -/
def State.reset : State := State.resetWith Config.params Outside.start

end Sys2Proof.Machine
end

