-- ==== Sys2Proof/Machine/Flags.lean ====
section
/-! DEFINITION. The `STATUS` register and its fields (10_state.md R27), the lock (R31), and the operations that write
one field. -/

namespace Sys2Proof.Machine

/-- `STATUS.BUSY`: `PHASE != IDLE` (10_state.md R27). -/
def busy (s : State) : Bool := s.phase != .idle

/-- `STATUS.READY`: `LIFE = READY` (10_state.md R27). -/
def ready (s : State) : Bool := s.life == .ready

/-- The `STATUS` register, bit 7 first; bit 7 always reads 0 (10_state.md R27). -/
def statusReg (s : State) : BitVec 8 :=
  0#1 ++ BitVec.ofBool s.flags.ill ++ BitVec.ofBool s.flags.drop ++ BitVec.ofBool s.flags.imgErr
    ++ BitVec.ofBool s.flags.txFail ++ BitVec.ofBool s.flags.initFail ++ BitVec.ofBool (ready s)
    ++ BitVec.ofBool (busy s)

/-- The positions after the event `Pin(SEL,1)` and before the event `Pin(SEL,0)` (10_state.md R31). -/
def inSelectWindow (p : Phase) : Bool :=
  p == .t2 || p == .t3 || p == .t4a || p == .t4d || p == .t4t || p == .t5 || p == .t6 || p == .t7

/-- `LOCK`: held by a WRITE or CLEAR transaction while select is asserted (10_state.md R31, 43_transmit.md R160). -/
def lockOf (s : State) : Lock :=
  if (s.kind == .write || s.kind == .clear) && inSelectWindow s.phase then .tx else .free

/-- `STATUS.DROP <- v` (60_exceptions.md R212). -/
def setDrop (v : Bool) (s : State) : State := { s with flags := { s.flags with drop := v } }

/-- `STATUS.ILL <- 1` (60_exceptions.md R216). -/
def setIll (s : State) : State := { s with flags := { s.flags with ill := true } }

/-- `STATUS.IMG_ERR <- v` (42_frame_buffer.md R136). -/
def setImgErr (v : Bool) (s : State) : State := { s with flags := { s.flags with imgErr := v } }

/-- `STATUS.TX_FAIL <- 0`, at the acceptance of a transmit command (43_transmit.md R153, R157). -/
def clearTxFail (s : State) : State := { s with flags := { s.flags with txFail := false } }

/-- `STATUS.TX_FAIL <- 1` where the answer was failure, else unchanged (43_transmit.md R153, R159). -/
def noteTxAnswer (ok : Bool) (s : State) : State :=
  { s with flags := { s.flags with txFail := s.flags.txFail || !ok } }

/-- `STATUS.INIT_FAIL <- 1` (60_exceptions.md R211). -/
def setInitFail (s : State) : State := { s with flags := { s.flags with initFail := true } }

end Sys2Proof.Machine
end

