-- ==== Sys2Proof/Syntax.lean ====
section
/-! DEFINITION. The host commands (30_encoding.md R73), one constructor per row of spec/opcode_table.json. -/

namespace Sys2Proof

/-- The commands of 30_encoding.md R73 with the operands of R72. A `bool8` or `src8` operand stays the byte that was
received: its reserved values are operands the command itself rejects (R75; log 14). `len` of FB.LOADIMAGE is the
payload's length, since exactly `len` payload bytes are always consumed (R76; log 19). -/
inductive Instr where
  | sysInit
  | lbSetPixel (col : U16) (white : Byte)
  | lbSetByte (idx : U16) (value : Byte)
  | lbCopyByte (src dst : U16)
  | lbFillBlack
  | lbFillWhite
  | fbSetPixel (col line : U16) (white : Byte)
  | fbSetByte (idx line : U16) (value : Byte)
  | fbCopyByte (sidx sline didx dline : U16)
  | fbFillBlack
  | fbFillWhite
  | fbLoadImage (payload : List Byte)
  | txSendLines (start count : U16) (srcsel : Byte) (row : U16)
  | txWriteLb (line : U16)
  | txWriteFb
  | panelClear
  | panelNop
  deriving DecidableEq, Repr

end Sys2Proof
end

