-- ==== Sys2Proof/Machine/Operands.lean ====
section
/-! DEFINITION. Operands: reserved encodings, ranges, offsets and bit numbers (30_encoding.md R71, R75, R77), the bit
codec (40_bit_codec.md) and the condition on a Write-Lines request (43_transmit.md R152). -/

namespace Sys2Proof.Machine

/-- A `bool8` operand, `none` for a reserved encoding (30_encoding.md R71, R75). -/
def bool8 (b : Byte) : Option Bool :=
  if b = 0x00 then some false else if b = 0x01 then some true else none

/-- A `src8` operand, `none` for a reserved encoding (30_encoding.md R71, R75). -/
def src8 (b : Byte) : Option Space :=
  if b = 0x00 then some .lb else if b = 0x01 then some .fb else none

/-- `1 <= v <= bound`, on the full operand before any subtraction (20_memory.md R62). -/
def inRange (v : U16) (bound : Nat) : Bool := decide (1 ≤ v.toNat) && decide (v.toNat ≤ bound)

/-- The byte of a row that holds pixel column `col` (10_state.md R20, 30_encoding.md R77). -/
def colByte (col : U16) : Nat := (col.toNat - 1) / 8

/-- The bit of that byte: the leftmost of eight pixels is bit 7 (20_memory.md R50). -/
def colBit (col : U16) : Nat := 7 - (col.toNat - 1) % 8

/-- The fold "`(line-1)*bytesPerRow + byteOffset`" (30_encoding.md R77). -/
def flatOffset (p : Params) (line : U16) (byteOffset : Nat) : Nat :=
  (line.toNat - 1) * p.bpr + byteOffset

/-- A byte with one pixel written: `1` is white, `0` is black (00_scope.md R13, 41_line_buffer.md R111). -/
def putPixel (v : Byte) (bit : Nat) (white : Bool) : Byte :=
  if white then v ||| ((1 : Byte) <<< bit) else v &&& ~~~((1 : Byte) <<< bit)

/-- `PAD`, the value of every padding byte (00_scope.md R6, 30_encoding.md R86). -/
def pad : Byte := 0x00

/-- The bit codec: `rev8(b)[i] = b[7-i]` (40_bit_codec.md R100), in the staged form of R101. -/
def rev8 (b : Byte) : Byte :=
  let s1 := ((b &&& 0xF0) >>> 4) ||| ((b &&& 0x0F) <<< 4)
  let s2 := ((s1 &&& 0xCC) >>> 2) ||| ((s1 &&& 0x33) <<< 2)
  ((s2 &&& 0xAA) >>> 1) ||| ((s2 &&& 0x55) <<< 1)

/-- A request to send `n` lines to panel line `l` from row `r` of `sp` is well-formed (43_transmit.md R152). -/
def wellFormedRequest (p : Params) (l n : Nat) (sp : Space) (r : Nat) : Bool :=
  decide (1 ≤ l) && decide (l + n ≤ p.height + 1) && decide (1 ≤ r) &&
    match sp with
    | .lb => decide (r = 1) && decide (n ≤ 1)
    | .fb => decide (r + n ≤ p.height + 1)

end Sys2Proof.Machine
end

