-- ==== Sys2Proof/Machine/Ops.lean ====
section
/-! DEFINITION. The named operations over buffers, pins, trace, environment and sequencer registers that every meaning
is written over (00_scope.md R12), the two ways a command ends without its effect (60_exceptions.md R212, R216), and
hardware reset (70_reset_and_hazards.md R240). -/

namespace Sys2Proof.Machine

/-- The outcome of one step or of one command. -/
abbrev Result := Host.Outcome State Fault Refusal

/-! ### Buffers -/

/-- The byte at an offset; an unlisted one reads as the reset content. -/
def Memory.read : Memory → Nat → Byte
  | [], _ => Memory.unlisted
  | (k, v) :: m, a => if k = a then v else Memory.read m a

/-- The memory with one byte written, in canonical form: offsets rising, the reset content never listed. -/
def Memory.write : Memory → Nat → Byte → Memory
  | [], a, v => if v = Memory.unlisted then [] else [(a, v)]
  | (k, w) :: m, a, v =>
    if a < k then (if v = Memory.unlisted then (k, w) :: m else (a, v) :: (k, w) :: m)
    else if a = k then (if v = Memory.unlisted then m else (a, v) :: m)
    else (k, w) :: Memory.write m a v

/-- `for a in 0 .. n-1: MemWrite(S:a, 1, v)` (41_line_buffer.md R114). -/
def Memory.fill (m : Memory) : Nat → Byte → Memory
  | 0, _ => m
  | n + 1, v => Memory.write (Memory.fill m n v) n v

/-- `for k in 0 .. len-1: MemWrite(S:(a+k), 1, P[k])` (42_frame_buffer.md R136). -/
def Memory.load (m : Memory) (a : Nat) : List Byte → Memory
  | [] => m
  | b :: bs => Memory.load (Memory.write m a b) (a + 1) bs

/-- The canonical form, for offsets from `lo` on. -/
def Memory.wfFrom : Nat → Memory → Bool
  | _, [] => true
  | lo, (k, v) :: m => decide (lo ≤ k) && v != Memory.unlisted && Memory.wfFrom (k + 1) m

/-- The canonical form: offsets strictly rising, no entry equal to what an unlisted offset reads as. -/
def Memory.wf (m : Memory) : Bool := Memory.wfFrom 0 m

/-- Every listed offset lies below `n`. -/
def Memory.within (n : Nat) (m : Memory) : Bool := m.all (fun c => decide (c.1 < n))

/-- The buffer a space names (20_memory.md R56). -/
def State.mem (s : State) : Space → Memory
  | .lb => s.lb
  | .fb => s.fb

/-- The state with one buffer replaced. -/
def State.withMem (s : State) : Space → Memory → State
  | .lb, m => { s with lb := m }
  | .fb, m => { s with fb := m }

/-- The length of a space: `BPR` or `FB_LEN` bytes (20_memory.md R56). -/
def spaceLen (p : Params) : Space → Nat
  | .lb => p.bpr
  | .fb => p.fbLen

/-- `MemRead(S:a, 1)` (00_scope.md R12), and what is done with the byte read; outside the buffer a fault. -/
def memRead (sp : Space) (a : Nat) (s : State) (k : Byte → Result) : Result :=
  if a < spaceLen s.params sp then k ((s.mem sp).read a) else .fault (.outsideBuffer sp a)

/-- `MemWrite(S:a, 1, v)` (00_scope.md R12), and what follows it; outside the buffer a fault. -/
def memWrite (sp : Space) (a : Nat) (v : Byte) (s : State) (k : State → Result) : Result :=
  if a < spaceLen s.params sp then k (s.withMem sp ((s.mem sp).write a v)) else .fault (.outsideBuffer sp a)

/-- One write per byte, every byte of the buffer (20_memory.md R54). -/
def fillSpace (sp : Space) (v : Byte) (s : State) : State :=
  s.withMem sp ((s.mem sp).fill (spaceLen s.params sp) v)

/-! ### Commands that end without their effect -/

/-- The reasons of a rejection; which one is not recorded anywhere (60_exceptions.md R216). -/
inductive RejectReason where
  | illegalOpcode
  | reservedOperand
  | notReady
  | badRange
  | initAgain
  deriving DecidableEq, Repr

/-- `raise Drop`: no buffer byte is read or written, `STATUS.DROP <- 1` (60_exceptions.md R212). -/
def raiseDrop (s : State) : State := setDrop true s

/-- `raise Reject(reason)`: the only change is `STATUS.ILL <- 1`, whatever the reason (60_exceptions.md R216). -/
def raiseReject (_reason : RejectReason) (s : State) : State := setIll s

/-! ### Pins and the output trace -/

def Pins.get (ps : Pins) : Pin → PinState
  | .sel => ps.sel
  | .disp => ps.disp
  | .pol => ps.pol

def Pins.set (ps : Pins) (p : Pin) (x : PinState) : Pins :=
  match p with
  | .sel => { ps with sel := x }
  | .disp => { ps with disp := x }
  | .pol => { ps with pol := x }

/-- `emit e` (00_scope.md R12): append to `OUT`; `Pin(p, v)` also sets `PIN[p]`, `CfgOut(p)` also sets `PINCFG[p]`
(10_state.md R33). In the timed form `Delay(t)` also starts the wait of 60_exceptions.md R227. -/
def emit (e : Event) (s : State) : State :=
  match e with
  | .cfgOut p =>
    { s with pins := s.pins.set p { s.pins.get p with cfg := true }, out := s.out ++ [e] }
  | .pin p v =>
    { s with pins := s.pins.set p { s.pins.get p with level := some v }, out := s.out ++ [e] }
  | .delay t =>
    { s with waitLeft := (match s.params.form with | .timed => t | .untimed => s.waitLeft), out := s.out ++ [e] }
  | .busCfg _ _ _ => { s with out := s.out ++ [e] }
  | .tx _ => { s with out := s.out ++ [e] }

/-! ### The environment's answers and the schedule -/

/-- The answer `env.tx_ok()` to the next `Tx` (60_exceptions.md R214): the next of the list, else a free value. -/
def Outside.txAnswer (o : Outside) : Bool :=
  match o.txOk with
  | a :: _ => a
  | [] => !Config.txFails o.draws

/-- The outside once that answer has been drawn. -/
def Outside.afterTx (o : Outside) : Outside := { o with txOk := o.txOk.tail, draws := o.draws + 1 }

/-- The answer `env.periph_ok()` to the next accepted SYS.INIT (60_exceptions.md R211). -/
def Outside.periphAnswer (o : Outside) : Bool :=
  match o.periphOk with
  | a :: _ => a
  | [] => !Config.periphFails o.draws

/-- The outside once that answer has been drawn. -/
def Outside.afterPeriph (o : Outside) : Outside := { o with periphOk := o.periphOk.tail, draws := o.draws + 1 }

/-- `tx(b)` of 43_transmit.md R153: emit `Tx(b)`; if the answer is failure, `STATUS.TX_FAIL <- 1`. -/
def tx (b : Byte) (s : State) : State :=
  noteTxAnswer s.env.txAnswer { emit (.tx b) s with env := s.env.afterTx }

/-! ### The sequencer -/

/-- `pc <- p` (00_scope.md R12). -/
def goto (p : Phase) (s : State) : State := { s with phase := p }

/-- `x[ADDR] <- L` (43_transmit.md R153). DESIGN CHOICE (log 27): the well-formed request `L = 256`, `n = 0` on a panel of
255 lines names a line that 8 bits do not hold; `ADDR` then takes a free value, which no later step sends. -/
def loadAddr (l draw : Nat) : BitVec 8 := if l < 256 then BitVec.ofNat 8 l else Config.unstatedAddr draw

/-- The acceptance step of `SendLines(L, n, S, r)` (43_transmit.md R153). What `ADDR` takes from a line above 255, which
the spec leaves open, is log 27's. -/
def acceptLines (l n : Nat) (sp : Space) (r : Nat) (s : State) : State :=
  goto .t1 (clearTxFail { s with
    kind      := .write
    addr      := loadAddr l s.env.draws
    linesLeft := BitVec.ofNat 8 n
    byteIdx   := 0
    srcSpace  := sp
    srcPtr    := BitVec.ofNat 21 ((r - 1) * s.params.bpr) })

/-- What TX.SENDLINES, TX.WRITELB and TX.WRITEFB share: the lifecycle check, then the range check, then acceptance
(43_transmit.md R151, R152, R154; the order is 60_exceptions.md R218). -/
def requestLines (l n : Nat) (sp : Space) (r : Nat) (s : State) : Result :=
  if s.life != .ready then .next (raiseReject .notReady s)
  else if !wellFormedRequest s.params l n sp r then .next (raiseReject .badRange s)
  else .next (acceptLines l n sp r s)

/-! ### Hardware reset -/

/-- Every piece of state takes its reset value (70_reset_and_hazards.md R240); the instance stays, and so does the
outside (log 18). -/
def hardReset (s : State) : State := State.resetWith s.params s.env

end Sys2Proof.Machine
end

