-- ==== Sys2Proof/Machine/LineBuffer.lean ====
section
/-! DEFINITION. The line buffer commands (41_line_buffer.md). -/

namespace Sys2Proof.Machine

/-- Read-modify-write of the byte that holds a pixel (20_memory.md R54): the common end of LB.SETPIXEL and FB.SETPIXEL. -/
def writePixel (sp : Space) (a bit : Nat) (white : Bool) (s : State) : Result :=
  memRead sp a s fun v => memWrite sp a (putPixel v bit white) s fun t => .next (setDrop false t)

/-- One byte write: the common end of LB.SETBYTE and FB.SETBYTE. -/
def writeByte (sp : Space) (a : Nat) (value : Byte) (s : State) : Result :=
  memWrite sp a value s fun t => .next (setDrop false t)

/-- One read then one write: the common end of LB.COPYBYTE and FB.COPYBYTE. -/
def copyByte (sp : Space) (src dst : Nat) (s : State) : Result :=
  memRead sp src s fun v => memWrite sp dst v s fun t => .next (setDrop false t)

/-- LB.SETPIXEL (41_line_buffer.md R111). -/
def execLbSetPixel (col : U16) (white : Byte) (s : State) : Result :=
  match bool8 white with
  | none => .next (raiseReject .reservedOperand s)
  | some w =>
    if !inRange col s.params.width then .next (raiseDrop s)
    else writePixel .lb (colByte col) (colBit col) w s

/-- LB.SETBYTE (41_line_buffer.md R112). -/
def execLbSetByte (idx : U16) (value : Byte) (s : State) : Result :=
  if !inRange idx s.params.bpr then .next (raiseDrop s)
  else writeByte .lb (idx.toNat - 1) value s

/-- LB.COPYBYTE (41_line_buffer.md R113): both checks precede any access. -/
def execLbCopyByte (src dst : U16) (s : State) : Result :=
  if !inRange src s.params.bpr then .next (raiseDrop s)
  else if !inRange dst s.params.bpr then .next (raiseDrop s)
  else copyByte .lb (src.toNat - 1) (dst.toNat - 1) s

/-- LB.FILLBLACK (41_line_buffer.md R114): no flag is written. -/
def execLbFillBlack (s : State) : Result := .next (fillSpace .lb 0x00 s)

/-- LB.FILLWHITE (41_line_buffer.md R115): no flag is written. -/
def execLbFillWhite (s : State) : Result := .next (fillSpace .lb 0xFF s)

end Sys2Proof.Machine
end

