-- ==== Sys2Proof/Machine/FrameBuffer.lean ====
section
/-! DEFINITION. The frame buffer commands (42_frame_buffer.md). -/

namespace Sys2Proof.Machine

/-- FB.SETPIXEL (42_frame_buffer.md R131). -/
def execFbSetPixel (col line : U16) (white : Byte) (s : State) : Result :=
  match bool8 white with
  | none => .next (raiseReject .reservedOperand s)
  | some w =>
    if !inRange col s.params.width then .next (raiseDrop s)
    else if !inRange line s.params.height then .next (raiseDrop s)
    else writePixel .fb (flatOffset s.params line (colByte col)) (colBit col) w s

/-- FB.SETBYTE (42_frame_buffer.md R132). -/
def execFbSetByte (idx line : U16) (value : Byte) (s : State) : Result :=
  if !inRange idx s.params.bpr then .next (raiseDrop s)
  else if !inRange line s.params.height then .next (raiseDrop s)
  else writeByte .fb (flatOffset s.params line (idx.toNat - 1)) value s

/-- FB.COPYBYTE (42_frame_buffer.md R133): all four checks precede any access. -/
def execFbCopyByte (sidx sline didx dline : U16) (s : State) : Result :=
  if !(inRange sidx s.params.bpr && inRange sline s.params.height) then .next (raiseDrop s)
  else if !(inRange didx s.params.bpr && inRange dline s.params.height) then .next (raiseDrop s)
  else copyByte .fb (flatOffset s.params sline (sidx.toNat - 1)) (flatOffset s.params dline (didx.toNat - 1)) s

/-- FB.FILLBLACK (42_frame_buffer.md R134): no flag is written. -/
def execFbFillBlack (s : State) : Result := .next (fillSpace .fb 0x00 s)

/-- FB.FILLWHITE (42_frame_buffer.md R135): no flag is written. -/
def execFbFillWhite (s : State) : Result := .next (fillSpace .fb 0xFF s)

/-- FB.LOADIMAGE (42_frame_buffer.md R136): a payload of any other length than `FB_LEN` is discarded. -/
def execFbLoadImage (payload : List Byte) (s : State) : Result :=
  if payload.length ≠ s.params.fbLen then .next (setImgErr true s)
  else .next (setImgErr false { s with fb := s.fb.load 0 payload })

end Sys2Proof.Machine
end

