-- ==== Sys2Proof/Machine/Lifecycle.lean ====
section
/-! DEFINITION. SYS.INIT (45_lifecycle.md); the steps it starts are in Sequencer.lean. -/

namespace Sys2Proof.Machine

/-- An accepted SYS.INIT whose peripheral check has been answered (45_lifecycle.md R196, R198). -/
def beginInit (periphOk : Bool) (s : State) : State :=
  if periphOk then goto .i1a { s with life := .initing, kind := .init }
  else setInitFail { s with life := .failed }

/-- SYS.INIT, its acceptance step (45_lifecycle.md R196): once only (R197); the peripheral check is drawn once. -/
def execSysInit (s : State) : Result :=
  if s.life != .uninit then .next (raiseReject .initAgain s)
  else .next (beginInit s.env.periphAnswer { s with env := s.env.afterPeriph })

end Sys2Proof.Machine
end

