-- ==== Sys2Proof/Machine/Transmit.lean ====
section
/-! DEFINITION. The acceptance of the transmit commands (43_transmit.md); the steps they start are in Sequencer.lean. -/

namespace Sys2Proof.Machine

/-- TX.SENDLINES (43_transmit.md R154). -/
def execTxSendLines (start count : U16) (srcsel : Byte) (row : U16) (s : State) : Result :=
  match src8 srcsel with
  | none => .next (raiseReject .reservedOperand s)
  | some sp => requestLines start.toNat count.toNat sp row.toNat s

/-- TX.WRITELB (43_transmit.md R155): `TX.SENDLINES line, 1, LB, 1`. -/
def execTxWriteLb (line : U16) (s : State) : Result := requestLines line.toNat 1 .lb 1 s

/-- TX.WRITEFB (43_transmit.md R156): `TX.SENDLINES 1, HEIGHT, FB, 1`. -/
def execTxWriteFb (s : State) : Result := requestLines 1 s.params.height .fb 1 s

/-- PANEL.CLEAR (43_transmit.md R157). -/
def execPanelClear (s : State) : Result :=
  if s.life != .ready then .next (raiseReject .notReady s)
  else .next (goto .t1 (clearTxFail { s with kind := .clear }))

/-- The reserved opcode `0x34` (30_encoding.md R74, R88): its whole effect is `raise Reject(illegal_opcode)`. -/
def execPanelNop (s : State) : Result := .next (raiseReject .illegalOpcode s)

end Sys2Proof.Machine
end

