-- ==== Sys2Proof/Machine/Dispatch.lean ====
section
/-! DEFINITION. One arm per command, each a call of its meaning. -/

namespace Sys2Proof.Machine

def exec (i : Instr) (s : State) : Host.Outcome State Fault Refusal :=
  match i with
  | .sysInit => Sys2Proof.Machine.execSysInit s
  | .lbSetPixel col white => Sys2Proof.Machine.execLbSetPixel col white s
  | .lbSetByte idx value => Sys2Proof.Machine.execLbSetByte idx value s
  | .lbCopyByte src dst => Sys2Proof.Machine.execLbCopyByte src dst s
  | .lbFillBlack => Sys2Proof.Machine.execLbFillBlack s
  | .lbFillWhite => Sys2Proof.Machine.execLbFillWhite s
  | .fbSetPixel col line white => Sys2Proof.Machine.execFbSetPixel col line white s
  | .fbSetByte idx line value => Sys2Proof.Machine.execFbSetByte idx line value s
  | .fbCopyByte sidx sline didx dline => Sys2Proof.Machine.execFbCopyByte sidx sline didx dline s
  | .fbFillBlack => Sys2Proof.Machine.execFbFillBlack s
  | .fbFillWhite => Sys2Proof.Machine.execFbFillWhite s
  | .fbLoadImage payload => Sys2Proof.Machine.execFbLoadImage payload s
  | .txSendLines start count srcsel row => Sys2Proof.Machine.execTxSendLines start count srcsel row s
  | .txWriteLb line => Sys2Proof.Machine.execTxWriteLb line s
  | .txWriteFb => Sys2Proof.Machine.execTxWriteFb s
  | .panelClear => Sys2Proof.Machine.execPanelClear s
  | .panelNop => Sys2Proof.Machine.execPanelNop s

end Sys2Proof.Machine
end

