-- ==== Sys2Proof/WellFormed.lean ====
section
/-! DEFINITION. Which commands carry only operand encodings the spec assigns a meaning (30_encoding.md R71, R75). -/

namespace Sys2Proof

/-- `bool8`: `0x00` or `0x01`; the rest is reserved (30_encoding.md R71). -/
def bool8Legal (b : Byte) : Bool := b == 0x00 || b == 0x01

/-- `src8`: `0x00` or `0x01`; the rest is reserved (30_encoding.md R71). -/
def src8Legal (b : Byte) : Bool := b == 0x00 || b == 0x01

/-- `len` is a `u32` (30_encoding.md R71, R76), so no longer payload has an encoding. -/
def payloadFits (payload : List Byte) : Bool := decide (payload.length < 4294967296)

/-- The command has an encoding at all. -/
def Instr.encodable : Instr → Bool
  | .fbLoadImage payload => payloadFits payload
  | .sysInit => true
  | .lbSetPixel _ _ => true
  | .lbSetByte _ _ => true
  | .lbCopyByte _ _ => true
  | .lbFillBlack => true
  | .lbFillWhite => true
  | .fbSetPixel _ _ _ => true
  | .fbSetByte _ _ _ => true
  | .fbCopyByte _ _ _ _ => true
  | .fbFillBlack => true
  | .fbFillWhite => true
  | .txSendLines _ _ _ _ => true
  | .txWriteLb _ => true
  | .txWriteFb => true
  | .panelClear => true
  | .panelNop => true

/-- The command has an encoding, and no operand of it is a reserved encoding (30_encoding.md R75). -/
def Instr.wellFormed : Instr → Bool
  | .lbSetPixel _ white => bool8Legal white
  | .fbSetPixel _ _ white => bool8Legal white
  | .txSendLines _ _ srcsel _ => src8Legal srcsel
  | .fbLoadImage payload => payloadFits payload
  | .sysInit => true
  | .lbSetByte _ _ => true
  | .lbCopyByte _ _ => true
  | .lbFillBlack => true
  | .lbFillWhite => true
  | .fbSetByte _ _ _ => true
  | .fbCopyByte _ _ _ _ => true
  | .fbFillBlack => true
  | .fbFillWhite => true
  | .txWriteLb _ => true
  | .txWriteFb => true
  | .panelClear => true
  | .panelNop => true

end Sys2Proof
end

