-- ==== Sys2Proof/Decode.lean ====
section
/-! DEFINITION. The decoder and the encoder of the host command stream (30_encoding.md Part A, R70 to R77). -/

namespace Sys2Proof

/-- Why no command was read: the opcode byte is in no row of the map (30_encoding.md R74), or the command's last
byte has not arrived (10_state.md R29). -/
inductive DecodeError where
  | illegalOpcode (op : Byte)
  | incomplete
  deriving DecidableEq, Repr

/-- `u16`: most significant byte first, "value `256*hi + lo`" (30_encoding.md R71). -/
def u16 (hi lo : Byte) : U16 := BitVec.ofNat 16 (256 * hi.toNat + lo.toNat)

/-- `u32`: four bytes, most significant first (30_encoding.md R71). -/
def u32 (b3 b2 b1 b0 : Byte) : BitVec 32 :=
  BitVec.ofNat 32 (16777216 * b3.toNat + 65536 * b2.toNat + 256 * b1.toNat + b0.toNat)

/-- One command from the front of a byte stream, with the bytes after it. The opcode alone decides the format, except
that FB.LOADIMAGE's length also depends on `len` (30_encoding.md R70, R72, R76). `0x34` decodes to the reserved row. -/
def decode : List Byte → Except DecodeError (Instr × List Byte)
  | [] => .error .incomplete
  | op :: rest =>
    match op with
    | 0x01#8 => .ok (.sysInit, rest)
    | 0x10#8 =>
      match rest with
      | c1 :: c0 :: w :: r => .ok (.lbSetPixel (u16 c1 c0) w, r)
      | _ => .error .incomplete
    | 0x11#8 =>
      match rest with
      | i1 :: i0 :: v :: r => .ok (.lbSetByte (u16 i1 i0) v, r)
      | _ => .error .incomplete
    | 0x12#8 =>
      match rest with
      | s1 :: s0 :: d1 :: d0 :: r => .ok (.lbCopyByte (u16 s1 s0) (u16 d1 d0), r)
      | _ => .error .incomplete
    | 0x13#8 => .ok (.lbFillBlack, rest)
    | 0x14#8 => .ok (.lbFillWhite, rest)
    | 0x20#8 =>
      match rest with
      | c1 :: c0 :: l1 :: l0 :: w :: r => .ok (.fbSetPixel (u16 c1 c0) (u16 l1 l0) w, r)
      | _ => .error .incomplete
    | 0x21#8 =>
      match rest with
      | i1 :: i0 :: l1 :: l0 :: v :: r => .ok (.fbSetByte (u16 i1 i0) (u16 l1 l0) v, r)
      | _ => .error .incomplete
    | 0x22#8 =>
      match rest with
      | a1 :: a0 :: b1 :: b0 :: c1 :: c0 :: d1 :: d0 :: r =>
        .ok (.fbCopyByte (u16 a1 a0) (u16 b1 b0) (u16 c1 c0) (u16 d1 d0), r)
      | _ => .error .incomplete
    | 0x23#8 => .ok (.fbFillBlack, rest)
    | 0x24#8 => .ok (.fbFillWhite, rest)
    | 0x25#8 =>
      match rest with
      | n3 :: n2 :: n1 :: n0 :: r =>
        if (u32 n3 n2 n1 n0).toNat ≤ r.length then
          .ok (.fbLoadImage (r.take (u32 n3 n2 n1 n0).toNat), r.drop (u32 n3 n2 n1 n0).toNat)
        else .error .incomplete
      | _ => .error .incomplete
    | 0x30#8 =>
      match rest with
      | s1 :: s0 :: n1 :: n0 :: sel :: r1 :: r0 :: r =>
        .ok (.txSendLines (u16 s1 s0) (u16 n1 n0) sel (u16 r1 r0), r)
      | _ => .error .incomplete
    | 0x31#8 =>
      match rest with
      | l1 :: l0 :: r => .ok (.txWriteLb (u16 l1 l0), r)
      | _ => .error .incomplete
    | 0x32#8 => .ok (.txWriteFb, rest)
    | 0x33#8 => .ok (.panelClear, rest)
    | 0x34#8 => .ok (.panelNop, rest)
    | _ => .error (.illegalOpcode op)

/-- The two bytes of a `u16` operand (30_encoding.md R71). -/
def u16Bytes (v : U16) : List Byte := [BitVec.ofNat 8 (v.toNat / 256), BitVec.ofNat 8 v.toNat]

/-- The four bytes of a `u32` operand (30_encoding.md R71). -/
def u32Bytes (v : BitVec 32) : List Byte :=
  [BitVec.ofNat 8 (v.toNat / 16777216), BitVec.ofNat 8 (v.toNat / 65536), BitVec.ofNat 8 (v.toNat / 256),
    BitVec.ofNat 8 v.toNat]

/-- The opcode column of the map (30_encoding.md R73). -/
def Instr.opcode : Instr → Byte
  | .sysInit => 0x01
  | .lbSetPixel _ _ => 0x10
  | .lbSetByte _ _ => 0x11
  | .lbCopyByte _ _ => 0x12
  | .lbFillBlack => 0x13
  | .lbFillWhite => 0x14
  | .fbSetPixel _ _ _ => 0x20
  | .fbSetByte _ _ _ => 0x21
  | .fbCopyByte _ _ _ _ => 0x22
  | .fbFillBlack => 0x23
  | .fbFillWhite => 0x24
  | .fbLoadImage _ => 0x25
  | .txSendLines _ _ _ _ => 0x30
  | .txWriteLb _ => 0x31
  | .txWriteFb => 0x32
  | .panelClear => 0x33
  | .panelNop => 0x34

/-- The bytes after the opcode, by the command's format (30_encoding.md R72). -/
def Instr.operandBytes : Instr → List Byte
  | .lbSetPixel col white => u16Bytes col ++ [white]
  | .lbSetByte idx value => u16Bytes idx ++ [value]
  | .lbCopyByte src dst => u16Bytes src ++ u16Bytes dst
  | .fbSetPixel col line white => u16Bytes col ++ u16Bytes line ++ [white]
  | .fbSetByte idx line value => u16Bytes idx ++ u16Bytes line ++ [value]
  | .fbCopyByte sidx sline didx dline => u16Bytes sidx ++ u16Bytes sline ++ u16Bytes didx ++ u16Bytes dline
  | .fbLoadImage payload => u32Bytes (BitVec.ofNat 32 payload.length) ++ payload
  | .txSendLines start count srcsel row => u16Bytes start ++ u16Bytes count ++ [srcsel] ++ u16Bytes row
  | .txWriteLb line => u16Bytes line
  | .sysInit => []
  | .lbFillBlack => []
  | .lbFillWhite => []
  | .fbFillBlack => []
  | .fbFillWhite => []
  | .txWriteFb => []
  | .panelClear => []
  | .panelNop => []

/-- The byte stream of a command (30_encoding.md R70, R72, R73). -/
def encode (i : Instr) : List Byte := i.opcode :: i.operandBytes

/-- The length of the command that a stream begins with, by its opcode and, for FB.LOADIMAGE, its `len`
(30_encoding.md R72, R76); an illegal opcode is consumed alone (R74). -/
def commandLength : List Byte → Nat
  | [] => 0
  | op :: rest =>
    match op with
    | 0x10#8 => 4
    | 0x11#8 => 4
    | 0x12#8 => 5
    | 0x20#8 => 6
    | 0x21#8 => 6
    | 0x22#8 => 9
    | 0x25#8 =>
      match rest with
      | n3 :: n2 :: n1 :: n0 :: _ => 5 + (u32 n3 n2 n1 n0).toNat
      | _ => 5
    | 0x30#8 => 8
    | 0x31#8 => 3
    | _ => 1

/-- The bytes of an opcode-table word: the first byte of the stream is bits 7..0. -/
def wordBytes (nbits w : Nat) : List Byte :=
  (List.range (nbits / 8)).map (fun k => BitVec.ofNat 8 (w >>> (8 * k)))

/-- The one command an opcode-table word stands for, every byte above `nbits` zero. -/
def tableCommand (nbits w : Nat) : List Byte :=
  (wordBytes nbits w ++
    List.replicate (commandLength (wordBytes nbits w ++ List.replicate 8 0x00)) 0x00).take
      (commandLength (wordBytes nbits w ++ List.replicate 8 0x00))

/-- The instruction this decoder reads from an opcode-table word, `none` where it refuses. -/
def decodeTableWord (nbits w : Nat) : Option Instr :=
  match decode (tableCommand nbits w) with
  | .ok (i, _) => some i
  | .error _ => none

end Sys2Proof
end

