-- ==== Sys2Proof/Machine/Timer.lean ====
section
/-! DEFINITION. The polarity toggle timer (44_polarity_timer.md): the enabling condition, the step of R183, and the
timed form of R184. -/

namespace Sys2Proof.Machine

/-- The other level. -/
def Level.flip : Level → Level
  | .low => .high
  | .high => .low

/-- The timer's step is enabled: running, and the select window is not held against it (44_polarity_timer.md R183, R186). -/
def polEnabled (s : State) : Bool :=
  s.polRun && (s.params.polArb == .free || lockOf s == .free)

/-- The timer's step (44_polarity_timer.md R183). In the timed form the next half-period is counted from here, and a
deferred toggle is no longer pending (R184). -/
def polToggle (s : State) : State :=
  let t := emit (.pin .pol s.polState.flip) { s with polState := s.polState.flip }
  match s.params.form with
  | .untimed => t
  | .timed => { t with polPend := false, polCnt := s.params.tPol }

/-- Timed form: the half-period is over and its toggle has not happened yet (44_polarity_timer.md R184: "the toggle is due"). -/
def halfPeriodOver (s : State) : Bool :=
  s.params.form == .timed && s.polRun && (s.polPend || s.polCnt == 0)

/-- Timed form: a toggle is due and its condition holds. It happens before any time passes (44_polarity_timer.md R184: "at
once", "as soon as the condition holds"); steps of the main timeline at the same instant may come before it or after it
(60_exceptions.md R218 (b)). -/
def polDueNow (s : State) : Bool := halfPeriodOver s && polEnabled s

/-- Where select has just been asserted: under `LOCKED` a toggle that is due now has to wait (10_state.md R32;
60_exceptions.md R218 (b): "if the sequencer's `T1` goes first the toggle waits for `T7`"). -/
def deferDue (s : State) : State :=
  { s with polPend := s.polPend || (halfPeriodOver s && s.params.polArb == .locked) }

/-- Timed form: one microsecond passes (44_polarity_timer.md R184; 60_exceptions.md R227 for the sequencer's delay). Where the
count runs out the toggle is due, or pending if the pin is locked. A legal `T_POL` is at least 1 (log 28). -/
def elapse (s : State) : State :=
  let t := { s with waitLeft := s.waitLeft - 1 }
  if !s.polRun || s.polPend then t
  else { t with polCnt := s.polCnt - 1, polPend := decide (s.polCnt ≤ 1) && !polEnabled s }

/-- What a turn of the timer does. An untimed timer that is not enabled does nothing (log 6). -/
def timerMove (s : State) : State :=
  match s.params.form with
  | .untimed => if polEnabled s then polToggle s else s
  | .timed => if polDueNow s then polToggle s else elapse s

/-- Whether a turn of the timer could change anything; only then does a free schedule offer it one. -/
def timerHasMove (s : State) : Bool :=
  match s.params.form with
  | .untimed => polEnabled s
  | .timed => s.polRun || decide (0 < s.waitLeft)

end Sys2Proof.Machine
end

