-- ==== Sys2Proof/Machine/Sequencer.lean ====
section
/-! DEFINITION. The sequencer's successor functions: Write-Lines (43_transmit.md R153), Clear (R158) and the power-up
sequence (45_lifecycle.md R196). One output event per step; I3 and I10 emit none. -/

namespace Sys2Proof.Machine

/-- At `T3` and `T4T`: on to the next line group, or to the frame terminator (43_transmit.md R153, R162). -/
def nextGroup (linesLeft : BitVec 8) : Phase := if linesLeft = 0 then .t5 else .t4a

/-- After a data byte: the next byte of the line, or the line trailer (43_transmit.md R153 at `T4D`). -/
def afterData (s : State) : State :=
  if s.byteIdx.toNat = s.params.bpr - 1 then goto .t4t s
  else { s with byteIdx := s.byteIdx + 1 }

/-- The register updates of `T4T`; the increment of `ADDR` is modulo 256 (43_transmit.md R153, 90_conflicts.md C10). -/
def endGroup (s : State) : State :=
  let t := { s with
    addr      := s.addr + 1
    srcPtr    := s.srcPtr + BitVec.ofNat 21 s.params.bpr
    linesLeft := s.linesLeft - 1 }
  goto (nextGroup t.linesLeft) t

/-- The offset of the next data byte: `SRC_PTR + BYTE_IDX` (43_transmit.md R153). -/
def dataOffset (s : State) : Nat := s.srcPtr.toNat + s.byteIdx.toNat

/-- `KIND = WRITE` (43_transmit.md R153). -/
def writeStep (s : State) : Result :=
  match s.phase with
  | .t1 => .next (goto .t2 (deferDue (emit (.pin .sel .high) s)))
  | .t2 => .next (goto .t3 (emit (.delay s.params.tSetup) s))
  | .t3 => .next (goto (nextGroup s.linesLeft) (tx s.params.modeWrite s))
  | .t4a => .next (goto .t4d { tx (rev8 s.addr) s with byteIdx := 0 })
  | .t4d => memRead s.srcSpace (dataOffset s) s fun v => .next (afterData (tx v s))
  | .t4t => .next (endGroup (tx pad s))
  | .t5 => .next (goto .t6 (tx pad s))
  | .t6 => .next (goto .t7 (emit (.delay s.params.tHold) s))
  | .t7 => .next (goto .t8 (emit (.pin .sel .low) s))
  | .t8 => .next (goto .idle (emit (.delay s.params.tIframe) s))
  | _ => .fault (.noSuccessor s.kind s.phase)

/-- `KIND = CLEAR` (43_transmit.md R158). -/
def clearStep (s : State) : Result :=
  match s.phase with
  | .t1 => .next (goto .t2 (deferDue (emit (.pin .sel .high) s)))
  | .t2 => .next (goto .t3 (emit (.delay s.params.tSetup) s))
  | .t3 => .next (goto .t5 (tx s.params.modeClear s))
  | .t5 => .next (goto .t6 (tx pad s))
  | .t6 => .next (goto .t7 (emit (.delay s.params.tHold) s))
  | .t7 => .next (goto .t8 (emit (.pin .sel .low) s))
  | .t8 => .next (goto .idle (emit (.delay s.params.tIframe) s))
  | _ => .fault (.noSuccessor s.kind s.phase)

/-- `KIND = INIT` (45_lifecycle.md R196). -/
def initStep (s : State) : Result :=
  match s.phase with
  | .i1a => .next (goto .i1b (emit (.cfgOut .sel) s))
  | .i1b => .next (goto .i1c (emit (.cfgOut .disp) s))
  | .i1c => .next (goto .i2 (emit (.cfgOut .pol) s))
  | .i2 => .next (goto .i3 (emit (.delay s.params.tPwr) s))
  | .i3 => .next (goto .i4 { s with polRun := true, polState := .low, polCnt := s.params.tPol })
  | .i4 => .next (goto .i5a (emit (.busCfg s.params.busClock s.params.busOrder s.params.busMode) s))
  | .i5a => .next (goto .i5b (emit (.pin .sel .low) s))
  | .i5b => .next (goto .i5c (emit (.pin .disp .low) s))
  | .i5c => .next (goto .i6 (emit (.pin .pol .low) s))
  | .i6 => .next (goto .i7 (emit (.pin .disp .high) s))
  | .i7 => .next (goto .i8 (emit (.delay s.params.tDisp1) s))
  | .i8 => .next (goto .i9 (emit (.pin .pol .low) s))
  | .i9 => .next (goto .i10 (emit (.delay s.params.tDisp2) s))
  | .i10 => .next (goto .idle { fillSpace .lb 0xFF s with life := .ready })
  | _ => .fault (.noSuccessor s.kind s.phase)

/-- One step of the running sequence (43_transmit.md R150, 10_state.md R25). -/
def seqStep (s : State) : Result :=
  match s.kind with
  | .write => writeStep s
  | .clear => clearStep s
  | .init => initStep s

end Sys2Proof.Machine
end

