-- ==== Sys2Proof/Machine/Port.lean ====
section
/-! DEFINITION. The command port and its assembly buffer (10_state.md R28, R29), the turn of the main timeline, the
choice of the next turn, and the placing of one command before the port. -/

namespace Sys2Proof.Machine

/-- What the idle port does in one step: nothing to accept, one byte of a command accepted, one illegal opcode byte
rejected, or the last byte of a command accepted. -/
inductive PortResult where
  | waits (s : State)
  | takes (s : State)
  | rejects (s : State)
  | runs (i : Instr) (s : State)

/-- Accept one byte. "A command takes effect only when its last byte has arrived" (10_state.md R29); an illegal opcode
byte is consumed alone and rejected (30_encoding.md R74). -/
def portStep (s : State) : PortResult :=
  match s.env.cmdIn with
  | [] => .waits s
  | b :: rest =>
    match decode (s.cbuf ++ [b]) with
    | .ok (i, left) => .runs i { s with cbuf := [], env := { s.env with cmdIn := left ++ rest } }
    | .error .incomplete => .takes { s with cbuf := s.cbuf ++ [b], env := { s.env with cmdIn := rest } }
    | .error (.illegalOpcode _) =>
      .rejects (raiseReject .illegalOpcode { s with cbuf := [], env := { s.env with cmdIn := rest } })

/-- What the main timeline's turn comes to: it is over, or a complete command is to be run. -/
inductive MainResult where
  | done (r : Result)
  | runs (i : Instr) (s : State)

/-- Timed form: the last `Delay` has not run yet. The sequencer's next step waits for it (60_exceptions.md R227), and so
does the port, which stays closed until the inter-frame delay has run (20_memory.md R59; log 10). -/
def delayRunning (s : State) : Bool := s.params.form == .timed && decide (0 < s.waitLeft)

/-- The turn of the main timeline: nothing while a delay runs; else the sequencer while it is busy, and the command port while
it is idle (10_state.md R28, 20_memory.md R57). -/
def mainSelect (s : State) : MainResult :=
  if delayRunning s then .done (.next s)
  else if busy s then .done (seqStep s)
  else
    match portStep s with
    | .waits t => .done (.next t)
    | .takes t => .done (.next t)
    | .rejects t => .done (.next t)
    | .runs i t => .runs i t

/-- Who moves next: the next entry of the schedule, else a free choice between the two timelines (10_state.md R35). -/
def nextTurn (s : State) : Turn :=
  match s.env.turns with
  | t :: _ => t
  | [] => if timerHasMove s && Config.timerMoves s.env.draws then .timer else .main

/-- The state once that choice has been drawn. -/
def afterTurn (s : State) : State :=
  { s with env := { s.env with turns := s.env.turns.tail, draws := s.env.draws + 1 } }

/-- One command before the port, so that the very next step accepts its last byte and runs it: the block idle, no
delay in the way, the turn the port's, all bytes but the last already assembled. -/
def placeCommand (bytes : List Byte) (s : State) : State :=
  { s with
    phase    := .idle
    waitLeft := 0
    cbuf     := bytes.dropLast
    env      := { s.env with turns := .main :: s.env.turns, cmdIn := bytes.getLast?.toList ++ s.env.cmdIn } }

end Sys2Proof.Machine
end

