-- ==== Sys2Proof/Machine/Registers.lean ====
section
/-! DEFINITION. The host register map (10_state.md R26, 45_lifecycle.md R200). -/

namespace Sys2Proof.Machine

/-- The value a read of register `number` returns: 0 `STATUS`, 1 `WIDTH`, 2 `HEIGHT`, any other an unspecified value
(10_state.md R26, U9). The 8-bit `STATUS` is zero-extended (log 8). -/
def readReg (number : Nat) (s : State) : BitVec 16 :=
  match number with
  | 0 => (statusReg s).setWidth 16
  | 1 => BitVec.ofNat 16 s.params.width
  | 2 => BitVec.ofNat 16 s.params.height
  | n => Config.unspecifiedRead n s.env.draws

/-- The host's turn to read: "no side effect" (10_state.md R26); only the host's own record grows. -/
def hostRead (number : Nat) (s : State) : State :=
  { s with env := { s.env with
      reads := s.env.reads ++ [{ number := number, value := readReg number s }]
      draws := s.env.draws + 1 } }

end Sys2Proof.Machine
end

