-- ==== Sys2Proof/Machine/Step.lean ====
section
/-! DEFINITION. One step of the machine: the schedule says which agent moves (00_scope.md R14, 10_state.md R35). -/

namespace Sys2Proof.Machine

/-- The turn of the main timeline, with a complete command run. -/
def mainMove (s : State) : Host.Outcome State Fault Refusal :=
  match mainSelect s with
  | .done r => r
  | .runs i t => exec i t

/-- One step. An instance outside 00_scope.md R5 is refused (93_implementation_defined.md U14). -/
def step (s : State) : Host.Outcome State Fault Refusal :=
  if s.params.geometryOk then
    match nextTurn s with
    | .main => mainMove (afterTurn s)
    | .timer => .next (timerMove (afterTurn s))
    | .read n => .next (hostRead n (afterTurn s))
    | .reset => .next (hardReset (afterTurn s))
  else .refused .illegalInstance

/-- `s` with the instruction of one opcode-table word placed where the next step runs it (log 12). -/
def State.withFetchWord (s : State) (nbits w : Nat) : State := placeCommand (tableCommand nbits w) s

end Sys2Proof.Machine
end

