-- ==== Sys2Proof/Assembler.lean ====
section
/-! DEFINITION. The assembler text of a command and the assembler aliases (30_encoding.md R78, R79). -/

namespace Sys2Proof

/-- `srcsel` is "written `LB` or `FB`" (30_encoding.md R78); a reserved byte has no spelling and is shown as a number. -/
def srcselText (b : Byte) : String :=
  if b = 0x00 then "LB" else if b = 0x01 then "FB" else toString b.toNat

/-- Operands separated by commas (30_encoding.md R78). -/
def asmLine (mnemonic : String) (operands : List String) : String :=
  if operands.isEmpty then mnemonic else mnemonic ++ " " ++ ", ".intercalate operands

/-- One command as an assembler line, numbers in decimal (30_encoding.md R78). -/
def Instr.asm : Instr → String
  | .sysInit => asmLine "SYS.INIT" []
  | .lbSetPixel col white => asmLine "LB.SETPIXEL" [toString col.toNat, toString white.toNat]
  | .lbSetByte idx value => asmLine "LB.SETBYTE" [toString idx.toNat, toString value.toNat]
  | .lbCopyByte src dst => asmLine "LB.COPYBYTE" [toString src.toNat, toString dst.toNat]
  | .lbFillBlack => asmLine "LB.FILLBLACK" []
  | .lbFillWhite => asmLine "LB.FILLWHITE" []
  | .fbSetPixel col line white =>
    asmLine "FB.SETPIXEL" [toString col.toNat, toString line.toNat, toString white.toNat]
  | .fbSetByte idx line value =>
    asmLine "FB.SETBYTE" [toString idx.toNat, toString line.toNat, toString value.toNat]
  | .fbCopyByte sidx sline didx dline =>
    asmLine "FB.COPYBYTE" [toString sidx.toNat, toString sline.toNat, toString didx.toNat, toString dline.toNat]
  | .fbFillBlack => asmLine "FB.FILLBLACK" []
  | .fbFillWhite => asmLine "FB.FILLWHITE" []
  | .fbLoadImage payload =>
    "FB.LOADIMAGE [" ++ " ".intercalate (payload.map fun b => toString b.toNat) ++ "]"
  | .txSendLines start count srcsel row =>
    asmLine "TX.SENDLINES" [toString start.toNat, toString count.toNat, srcselText srcsel, toString row.toNat]
  | .txWriteLb line => asmLine "TX.WRITELB" [toString line.toNat]
  | .txWriteFb => asmLine "TX.WRITEFB" []
  | .panelClear => asmLine "PANEL.CLEAR" []
  | .panelNop => asmLine "PANEL.NOP" []

/-- The alias LB.CLEAR (30_encoding.md R79). -/
def Instr.lbClear : Instr := .lbFillWhite

/-- The alias FB.CLEAR (30_encoding.md R79). -/
def Instr.fbClear : Instr := .fbFillWhite

/-- The alias `TX.FLUSHROWS r, n`: `TX.SENDLINES r, n, FB, r` (30_encoding.md R79). -/
def Instr.txFlushRows (r n : U16) : Instr := .txSendLines r n 0x01 r

end Sys2Proof
end

