-- ==== Sys2Proof/Safety.lean ====
section
/-! DEFINITION. What the statements speak of: the panel wire frames (30_encoding.md Part B), the events a running sequence
has still to emit, the discipline every output trace keeps (R80, R89, 44_polarity_timer.md R186), the invariant of the
machine, and the end of a run (44_polarity_timer.md R188). -/

namespace Sys2Proof.Machine

/-! ### Wire frames -/

/-- `k` bytes of a buffer from an offset on, in ascending order (20_memory.md R52). -/
def bytesAt (m : Memory) (off k : Nat) : List Byte := (List.range k).map fun j => m.read (off + j)

/-- `n` line groups: address byte, the line's bytes, line trailer; addresses and rows ascend (30_encoding.md R82, R84). -/
def lineGroups (p : Params) (m : Memory) : (addr off n : Nat) → List Byte
  | _, _, 0 => []
  | addr, off, n + 1 =>
    rev8 (BitVec.ofNat 8 addr) :: (bytesAt m off p.bpr ++ pad :: lineGroups p m (addr + 1) (off + p.bpr) n)

/-- The Write-Lines frame for `n` lines from line `l`, data from the 1-indexed row `r` on (30_encoding.md R82). -/
def writeFrame (p : Params) (m : Memory) (l n r : Nat) : List Byte :=
  p.modeWrite :: (lineGroups p m l ((r - 1) * p.bpr) n ++ [pad])

/-- The Clear frame (30_encoding.md R85). -/
def clearFrame (p : Params) : List Byte := [p.modeClear, pad]

/-- The events after the last byte of a frame (30_encoding.md R80). -/
def envelopeEnd (p : Params) : List Event := [.delay p.tHold, .pin .sel .low, .delay p.tIframe]

/-- The transaction envelope around a frame (30_encoding.md R80). -/
def envelope (p : Params) (frame : List Byte) : List Event :=
  .pin .sel .high :: .delay p.tSetup :: (frame.map Event.tx ++ envelopeEnd p)

/-- The twelve events of the power-up sequence, in order (45_lifecycle.md R199). -/
def initEvents (p : Params) : List Event :=
  [.cfgOut .sel, .cfgOut .disp, .cfgOut .pol, .delay p.tPwr, .busCfg p.busClock p.busOrder p.busMode,
    .pin .sel .low, .pin .disp .low, .pin .pol .low, .pin .disp .high, .delay p.tDisp1, .pin .pol .low,
    .delay p.tDisp2]

/-- The bits of a byte in the order they go on the serial wire: bit 7 first (00_scope.md R9, 10_state.md R33). -/
def wireBits (b : Byte) : List Bool := (List.range 8).map fun i => b.getLsbD (7 - i)

/-! ### What a running sequence has still to do -/

/-- The number of init steps already taken at a position of the power-up sequence (45_lifecycle.md R196). -/
def initStepsDone : Phase → Nat
  | .i1a => 0 | .i1b => 1 | .i1c => 2 | .i2 => 3 | .i3 => 4 | .i4 => 5 | .i5a => 6 | .i5b => 7 | .i5c => 8
  | .i6 => 9 | .i7 => 10 | .i8 => 11 | .i9 => 12 | .i10 => 13
  | .idle | .t1 | .t2 | .t3 | .t4a | .t4d | .t4t | .t5 | .t6 | .t7 | .t8 => 14

/-- The number of init events already emitted at a position; `I3` emits none (45_lifecycle.md R196). -/
def initEventsDone (p : Phase) : Nat :=
  if initStepsDone p ≤ 4 then initStepsDone p else initStepsDone p - 1

/-- The line groups still to send after the current one. -/
def groupsAfter (s : State) : List Byte :=
  lineGroups s.params (s.mem s.srcSpace) (s.addr.toNat + 1) (s.srcPtr.toNat + s.params.bpr) (s.linesLeft.toNat - 1)

/-- The events the running sequence has still to emit, read off the frame definitions (30_encoding.md R80, R82, R85;
45_lifecycle.md R199). Nothing where `PHASE` is no position of the running sequence. -/
def remaining (s : State) : List Event :=
  let p := s.params
  let fin : List Event := .tx pad :: envelopeEnd p
  let groups := lineGroups p (s.mem s.srcSpace) s.addr.toNat s.srcPtr.toNat s.linesLeft.toNat
  match s.kind, s.phase with
  | .write, .t1 => .pin .sel .high :: .delay p.tSetup :: .tx p.modeWrite :: (groups.map Event.tx ++ fin)
  | .write, .t2 => .delay p.tSetup :: .tx p.modeWrite :: (groups.map Event.tx ++ fin)
  | .write, .t3 => .tx p.modeWrite :: (groups.map Event.tx ++ fin)
  | .write, .t4a => groups.map Event.tx ++ fin
  | .write, .t4d =>
    (bytesAt (s.mem s.srcSpace) (s.srcPtr.toNat + s.byteIdx.toNat) (p.bpr - s.byteIdx.toNat)).map Event.tx
      ++ .tx pad :: ((groupsAfter s).map Event.tx ++ fin)
  | .write, .t4t => .tx pad :: ((groupsAfter s).map Event.tx ++ fin)
  | .clear, .t1 => envelope p (clearFrame p)
  | .clear, .t2 => .delay p.tSetup :: .tx p.modeClear :: fin
  | .clear, .t3 => .tx p.modeClear :: fin
  | .write, .t5 | .clear, .t5 => fin
  | .write, .t6 | .clear, .t6 => envelopeEnd p
  | .write, .t7 | .clear, .t7 => [.pin .sel .low, .delay p.tIframe]
  | .write, .t8 | .clear, .t8 => [.delay p.tIframe]
  | .init, ph => (initEvents p).drop (initEventsDone ph)
  | _, _ => []

/-- The sequencer steps still to come (43_transmit.md R162; 14 steps for SYS.INIT). -/
def stepsLeft (s : State) : Nat :=
  let group := s.params.bpr + 2
  match s.kind, s.phase with
  | _, .idle => 0
  | .write, .t1 => 7 + s.linesLeft.toNat * group
  | .write, .t2 => 6 + s.linesLeft.toNat * group
  | .write, .t3 => 5 + s.linesLeft.toNat * group
  | .write, .t4a => 4 + s.linesLeft.toNat * group
  | .write, .t4d => 5 + (s.params.bpr - s.byteIdx.toNat) + (s.linesLeft.toNat - 1) * group
  | .write, .t4t => 5 + (s.linesLeft.toNat - 1) * group
  | .clear, .t1 => 7
  | .clear, .t2 => 6
  | .clear, .t3 => 5
  | .write, .t5 | .clear, .t5 => 4
  | .write, .t6 | .clear, .t6 => 3
  | .write, .t7 | .clear, .t7 => 2
  | .write, .t8 | .clear, .t8 => 1
  | .init, ph => 14 - initStepsDone ph
  | _, _ => 0

/-- `k` steps of the sequencer, with no turn of any other agent between them. -/
def seqRun : Nat → State → Result
  | 0, s => .next s
  | k + 1, s =>
    match seqStep s with
    | .next t => seqRun k t
    | .fault r => .fault r
    | .refused r => .refused r

/-- An event on the polarity pin. -/
def Event.isPol : Event → Bool
  | .pin .pol _ => true
  | .pin .sel _ => false
  | .pin .disp _ => false
  | .cfgOut _ => false
  | .busCfg _ _ _ => false
  | .tx _ => false
  | .delay _ => false

/-- The polarity writes of a trace, in order. -/
def polWrites (es : List Event) : List Event := es.filter Event.isPol

/-- A trace without its polarity writes (44_polarity_timer.md R187: they "only appear between" the others). DESIGN CHOICE
(log 29): R188 observes "the projection of `OUT`" and does not say what it leaves out; here it is every polarity write, the
timer's and the sequencer's own at `I5c` and `I8`. -/
def noPol (es : List Event) : List Event := es.filter fun e => !e.isPol

/-! ### The discipline of the output trace -/

/-- Where an output trace stands with respect to transactions. -/
inductive TracePos where
  /-- No transaction open, and the inter-frame delay of the last one has been requested. -/
  | between
  /-- `Pin(SEL,1)` emitted. -/
  | selected
  /-- `Delay(T_SETUP)` emitted. -/
  | settled
  /-- Write-Lines: at the start of a line group or of the frame terminator; `prev` is the last line sent, 0 for none. -/
  | groupStart (prev : Nat)
  /-- Write-Lines: inside the data of line `line`, `left` bytes to come. -/
  | lineData (line left : Nat)
  /-- Write-Lines: the line trailer of `line` to come. -/
  | lineEnd (line : Nat)
  /-- Clear: the padding byte to come. -/
  | clearPad
  /-- The frame's last byte emitted. -/
  | framed
  /-- `Delay(T_HOLD)` emitted. -/
  | held
  /-- `Pin(SEL,0)` emitted, the inter-frame delay to come. -/
  | deselected
  deriving DecidableEq, Repr

/-- Whether the position lies outside the select window. -/
def TracePos.outsideWindow (q : TracePos) : Bool := q == .between || q == .deselected

/-- One transmitted byte: 30_encoding.md R81, R82, R84, R85, R86, R89. -/
def advanceTx (p : Params) (q : TracePos) (b : Byte) : Option TracePos :=
  match q with
  | .settled =>
    if b = p.modeWrite then some (.groupStart 0) else if b = p.modeClear then some .clearPad else none
  | .groupStart prev =>
    if b = pad then some .framed
    else if (prev = 0 ∨ (rev8 b).toNat = prev + 1) ∧ (rev8 b).toNat ≤ p.height then
      some (.lineData (rev8 b).toNat p.bpr)
    else none
  | .lineData line left =>
    if left = 0 then none else if left = 1 then some (.lineEnd line) else some (.lineData line (left - 1))
  | .lineEnd line => if b = pad then some (.groupStart line) else none
  | .clearPad => if b = pad then some .framed else none
  | .between | .selected | .framed | .held | .deselected => none

/-- One requested delay: the three of a transaction stand where 30_encoding.md R80 puts them; any other lies outside. -/
def advanceDelay (p : Params) (q : TracePos) (t : Nat) : Option TracePos :=
  match q with
  | .between => some .between
  | .selected => if t = p.tSetup then some .settled else none
  | .framed => if t = p.tHold then some .held else none
  | .deselected => if t = p.tIframe then some .between else none
  | .settled | .groupStart _ | .lineData _ _ | .lineEnd _ | .clearPad | .held => none

/-- One event. Under `LOCKED` no polarity write lies inside the select window (44_polarity_timer.md R186). -/
def advance (p : Params) (q : TracePos) (e : Event) : Option TracePos :=
  match e with
  | .tx b => advanceTx p q b
  | .delay t => advanceDelay p q t
  | .pin .sel .high => if q = .between then some .selected else none
  | .pin .sel .low => if q = .held then some .deselected else if q = .between then some .between else none
  | .pin .pol _ => if p.polArb = .free ∨ q.outsideWindow then some q else none
  | .pin .disp _ => if q = .between then some q else none
  | .cfgOut _ => if q = .between then some q else none
  | .busCfg _ _ _ => if q = .between then some q else none

/-- Where a whole trace stands; `none` if some event breaks the discipline of 30_encoding.md R80, R89. -/
def tracePos (p : Params) : TracePos → List Event → Option TracePos
  | q, [] => some q
  | q, e :: es =>
    match advance p q e with
    | some q' => tracePos p q' es
    | none => none

/-- The trace position that fits the sequencer's position. -/
def posFits (s : State) (q : TracePos) : Prop :=
  match s.kind, s.phase with
  | _, .idle => q = .between
  | .write, .t1 | .clear, .t1 => q = .between
  | .write, .t2 | .clear, .t2 => q = .selected
  | .write, .t3 | .clear, .t3 => q = .settled
  | .write, .t4a => ∃ prev, q = .groupStart prev ∧ (prev = 0 ∨ prev + 1 = s.addr.toNat)
  | .write, .t4d => q = .lineData s.addr.toNat (s.params.bpr - s.byteIdx.toNat)
  | .write, .t4t => q = .lineEnd s.addr.toNat
  | .write, .t5 => ∃ prev, q = .groupStart prev
  | .clear, .t5 => q = .clearPad
  | .write, .t6 | .clear, .t6 => q = .framed
  | .write, .t7 | .clear, .t7 => q = .held
  | .write, .t8 | .clear, .t8 => q = .deselected
  | .init, _ => q = .between
  | _, _ => False

/-- `OUT` keeps the discipline, and stands where the sequencer stands. -/
def TraceInv (s : State) : Prop := ∃ q, tracePos s.params .between s.out = some q ∧ posFits s q

/-! ### The invariant of the machine -/

/-- `PHASE` is a position of the sequence `KIND` names (10_state.md R25). -/
def phaseFits (s : State) : Bool :=
  match s.kind, s.phase with
  | _, .idle => true
  | .write, .t1 | .write, .t2 | .write, .t3 | .write, .t4a | .write, .t4d | .write, .t4t | .write, .t5
  | .write, .t6 | .write, .t7 | .write, .t8 => true
  | .clear, .t1 | .clear, .t2 | .clear, .t3 | .clear, .t5 | .clear, .t6 | .clear, .t7 | .clear, .t8 => true
  | .init, ph => decide (initStepsDone ph < 14)
  | _, _ => false

/-- How far the power-up sequence has come: 0 before it, 14 once `LIFE = READY`. -/
def initProgress (s : State) : Nat :=
  match s.life with
  | .uninit => 0
  | .failed => 0
  | .initing => initStepsDone s.phase
  | .ready => 14

/-- The line groups still to send name lines of the panel and bytes of the source buffer (43_transmit.md R152). -/
def linesInside (s : State) : Prop :=
  s.linesLeft.toNat = 0 ∨
    (1 ≤ s.addr.toNat ∧ s.addr.toNat + s.linesLeft.toNat ≤ s.params.height + 1 ∧
      s.srcPtr.toNat + s.linesLeft.toNat * s.params.bpr ≤ spaceLen s.params s.srcSpace)

/-- The working registers of a running Write-Lines sequence. -/
def registersFit (s : State) : Prop :=
  match s.kind, s.phase with
  | .write, .t1 | .write, .t2 | .write, .t3 => linesInside s
  | .write, .t4a | .write, .t4t => s.linesLeft.toNat ≠ 0 ∧ linesInside s
  | .write, .t4d => s.linesLeft.toNat ≠ 0 ∧ linesInside s ∧ s.byteIdx.toNat < s.params.bpr
  | _, _ => True

/-- What holds of every state a legal instance reaches. -/
structure Inv (s : State) : Prop where
  /-- The instance is legal (00_scope.md R5 to R7). -/
  legal : s.params.legal = true
  /-- Both memories are in canonical form, inside their buffer. -/
  lbWf : s.lb.wf = true
  lbWithin : s.lb.within s.params.bpr = true
  fbWf : s.fb.wf = true
  fbWithin : s.fb.within s.params.fbLen = true
  /-- `CBUF` holds an incomplete command, and nothing while the block is busy (10_state.md R28, R29). -/
  cbufOpen : decode s.cbuf = .error .incomplete
  cbufIdle : s.phase ≠ .idle → s.cbuf = []
  /-- The sequencer stands at a position of its sequence, with registers that keep every access inside. -/
  phaseFits : phaseFits s = true
  registersFit : registersFit s
  /-- `LIFE` and the running sequence (10_state.md R30, 43_transmit.md R151). -/
  initing : s.life = .initing ↔ s.phase ≠ .idle ∧ s.kind = .init
  transmitReady : s.phase ≠ .idle → s.kind ≠ .init → s.life = .ready
  failed : s.life = .failed ↔ s.flags.initFail = true
  txFailReady : s.life ≠ .ready → s.flags.txFail = false
  /-- The timer runs from step I3 on (44_polarity_timer.md R182). -/
  polRun : s.polRun = decide (5 ≤ initProgress s)
  /-- A pending toggle is one that ran out under `LOCKED`, and one that ran out is pending while the lock is held (R32). -/
  polPend : s.polPend = true →
    s.params.form = .timed ∧ s.params.polArb = .locked ∧ s.polRun = true ∧ s.polCnt = 0
  polDeferred : s.params.form = .timed → s.params.polArb = .locked → lockOf s = .tx → s.polCnt = 0 → s.polPend = true
  polCntUntimed : s.params.form = .untimed → s.polCnt = s.params.tPol
  polCntTimed : s.polCnt ≤ s.params.tPol
  waitUntimed : s.params.form = .untimed → s.waitLeft = 0
  /-- The pins: configured at I1, driven from I5 on; select is high exactly while the lock is held. -/
  selCfg : s.pins.sel.cfg = decide (1 ≤ initProgress s)
  dispCfg : s.pins.disp.cfg = decide (2 ≤ initProgress s)
  polCfg : s.pins.pol.cfg = decide (3 ≤ initProgress s)
  selLevel : s.pins.sel.level =
    if 7 ≤ initProgress s then some (if lockOf s = .tx then .high else .low) else none
  dispLevel : s.pins.disp.level =
    if 10 ≤ initProgress s then some .high else if 8 ≤ initProgress s then some .low else none
  polLevel : s.polRun = false → s.pins.pol.level = none

/-! ### Runs -/

/-- A run has ended: nothing more from the host, no partial command, the sequencer idle (44_polarity_timer.md R188). -/
def ended (s : State) : Bool := s.env.cmdIn.isEmpty && s.cbuf.isEmpty && !busy s

/-- Pixel `(col, row)` of a space, 1-indexed, `true` white; `LB` has the one row 1 (10_state.md R20, R21). -/
def pixelAt (sp : Space) (row col : Nat) (s : State) : Bool :=
  ((s.mem sp).read ((row - 1) * s.params.bpr + (col - 1) / 8)).getLsbD (7 - (col - 1) % 8)

/-- An endless run of the whole machine. -/
def IsRun (r : Nat → State) : Prop := ∀ n, step (r n) = .next (r (n + 1))

/-- The next step is one of the running sequence. -/
def sequencerMoves (s : State) : Prop :=
  nextTurn s = .main ∧ busy s = true ∧ delayRunning s = false

/-- Weak fairness for the sequencer: "a `PHASE != IDLE` sequencer eventually steps" (44_polarity_timer.md R188,
92_eei_decisions.md D27). In the timed form this includes that the time of its delay passes. -/
def SequencerFair (r : Nat → State) : Prop :=
  ∀ n, (∀ m, n ≤ m → busy (r m) = true) → ∃ m, n ≤ m ∧ sequencerMoves (r m)

/-- Weak fairness for the timer, in the timed form: "a due toggle whose condition holds eventually happens"
(44_polarity_timer.md R188). Such a toggle happens at the next turn of the timer. -/
def TimerFair (r : Nat → State) : Prop :=
  ∀ n, (∀ m, n ≤ m → polDueNow (r m) = true) → ∃ m, n ≤ m ∧ nextTurn (r m) = .timer

/-- The fairness that 44_polarity_timer.md R188 assumes of a run. A premise of what is claimed of a whole run, since no
single step can show it (log 6). -/
structure WeaklyFair (r : Nat → State) : Prop where
  sequencer : SequencerFair r
  timer : TimerFair r

/-- Command `i` at `s` sends `frame` inside one envelope, and nothing else but polarity writes, under every schedule of the
whole machine without a hardware reset and whatever the environment answers: so it is whenever the block is idle again. -/
def EmitsUnderEverySchedule (i : Instr) (frame : List Byte) (s : State) : Prop :=
  ∀ (t u : State) (k : Nat), exec i s = .next t → (∀ x ∈ t.env.turns, x ≠ .reset) →
    Host.Core.run Sys2Proof.core k t = .next u → u.phase = .idle →
    noPol u.out = noPol s.out ++ envelope s.params frame

/-! ### What acceptance and reset leave -/

/-- What the acceptance of a request for `n` lines from line `l`, row `r` of `sp` makes of `s` (43_transmit.md R153,
acceptance step): the registers hold the request without truncation, `TX_FAIL` is cleared, nothing else changes. With no
line to send `ADDR` is not constrained (log 27). -/
def acceptedAs (s t : State) (l n : Nat) (sp : Space) (r : Nat) : Prop :=
  t = { s with
    kind := .write, addr := t.addr, linesLeft := t.linesLeft, byteIdx := 0, srcSpace := sp, srcPtr := t.srcPtr,
    flags := { s.flags with txFail := false }, phase := .t1 } ∧
  t.linesLeft.toNat = n ∧ (n ≠ 0 → t.addr.toNat = l) ∧ t.srcPtr.toNat = (r - 1) * s.params.bpr ∧
  stepsLeft t = 7 + n * (s.params.bpr + 2)

/-- 10_state.md R34, row by row; the row of the working registers says "unspecified" and asks nothing. -/
def ResetRows (s : State) : Prop :=
  (∀ a, s.lb.read a = 0xFF) ∧ (∀ a, s.fb.read a = 0xFF) ∧
  (∀ q : Pin, (s.pins.get q).cfg = false ∧ (s.pins.get q).level = none) ∧
  s.polRun = false ∧ s.polState = .low ∧ s.polCnt = s.params.tPol ∧ s.polPend = false ∧
  s.phase = .idle ∧ statusReg s = 0x00 ∧
  readReg 1 s = BitVec.ofNat 16 s.params.width ∧ readReg 2 s = BitVec.ofNat 16 s.params.height ∧
  s.cbuf = [] ∧ s.life = .uninit ∧ lockOf s = .free ∧ s.out = []

end Sys2Proof.Machine
end

