-- ==== Sys2Proof/Certificates/Slice0/Obligations.lean ====
section
/-! DEFINITION. The statements put to the provers. Each docstring names the rule of spec/ it formalises; a clause that
rests on a choice of the model names its log entry. -/

open Sys2Proof Sys2Proof.Machine

/-! ### Encodings (30_encoding.md Part A) -/

/-- Every command of every format is read back from its own bytes, whatever follows (R70 to R73, R76). -/
def Obligations.DecodeOfEncodeIsTheCommand : Prop :=
  ∀ (i : Instr) (rest : List Byte), i.encodable = true → decode (encode i ++ rest) = .ok (i, rest)

/-- Each byte stream has one reading: what the decoder read, the encoder writes again (R70 to R73, R76). -/
def Obligations.EncodeOfDecodedIsTheBytes : Prop :=
  ∀ (bs : List Byte) (i : Instr) (rest : List Byte), decode bs = .ok (i, rest) →
    encode i ++ rest = bs ∧ i.encodable = true

/-- No proper prefix of a command is a command: it is incomplete (10_state.md R29, R70). -/
def Obligations.ProperPrefixesAreIncomplete : Prop :=
  ∀ (i : Instr) (k : Nat), i.encodable = true → k < (encode i).length →
    decode ((encode i).take k) = .error .incomplete

/-- One word a family from 95_test_vectors.md 3.7 and one reserved operand, read as the table of R72, R73 says. -/
def Obligations.ListedWordsDecodeAsTheSpecSays : Prop :=
  decode [0x01] = .ok (.sysInit, []) ∧
  decode [0x10, 0x01, 0x90, 0x01] = .ok (.lbSetPixel 400 0x01, []) ∧
  decode [0x12, 0x00, 0x01, 0x00, 0x02] = .ok (.lbCopyByte 1 2, []) ∧
  decode [0x21, 0x00, 0x02, 0x00, 0x03, 0xA5] = .ok (.fbSetByte 2 3 0xA5, []) ∧
  decode [0x25, 0x00, 0x00, 0x00, 0x02, 0xAA, 0xBB] = .ok (.fbLoadImage [0xAA, 0xBB], []) ∧
  decode [0x30, 0x00, 0x02, 0x00, 0x02, 0x01, 0x00, 0x02] = .ok (.txSendLines 2 2 0x01 2, []) ∧
  decode [0x33] = .ok (.panelClear, []) ∧
  decode [0x10, 0x00, 0x01, 0x02, 0x13] = .ok (.lbSetPixel 1 0x02, [0x13])

/-! ### The port and the step -/

/-- When the byte at the port completes a command, the step is `exec` of it, at the state whose assembly buffer is empty,
whose byte is accepted and whose turn is drawn (10_state.md R28, R29; the turn and the draw are the model's, logs 6, 7). -/
def Obligations.StepRunsTheDecodedCommand : Prop :=
  ∀ (s : State) (b : Byte) (rest : List Byte) (i : Instr), s.params.geometryOk = true → nextTurn s = .main →
    delayRunning s = false → s.phase = .idle → s.env.cmdIn = b :: rest →
    decode (s.cbuf ++ [b]) = .ok (i, []) →
    step s = exec i { s with
      cbuf := []
      env := { s.env with cmdIn := rest, turns := s.env.turns.tail, draws := s.env.draws + 1 } }

/-- R150, R25: in a busy state the turn of the main timeline, with no delay in the way, is one step of
the running sequence, at the state whose turn is drawn (the turn and the draw are the model's, logs 6, 7). -/
def Obligations.StepRunsTheSequencer : Prop :=
  ∀ (s : State), s.params.geometryOk = true → nextTurn s = .main → busy s = true → delayRunning s = false →
    step s = seqStep { s with env := { s.env with turns := s.env.turns.tail, draws := s.env.draws + 1 } }

/-- R29: an incomplete command has no effect but to stand in `CBUF`; with no byte written, the port waits. -/
def Obligations.StepKeepsAnIncompleteCommand : Prop :=
  ∀ (s : State), s.params.geometryOk = true → nextTurn s = .main → delayRunning s = false → s.phase = .idle →
    (s.env.cmdIn = [] →
      step s = .next { s with env := { s.env with turns := s.env.turns.tail, draws := s.env.draws + 1 } }) ∧
    (∀ (b : Byte) (rest : List Byte), s.env.cmdIn = b :: rest → decode (s.cbuf ++ [b]) = .error .incomplete →
      step s = .next { s with
        cbuf := s.cbuf ++ [b]
        env := { s.env with cmdIn := rest, turns := s.env.turns.tail, draws := s.env.draws + 1 } })

/-- R74: an opcode byte outside the sixteen of the map, `0x34` among them, is consumed alone and rejected. -/
def Obligations.IllegalOpcodeBytesAreRejected : Prop :=
  ∀ (s : State) (b : Byte) (rest : List Byte), s.params.geometryOk = true → nextTurn s = .main →
    delayRunning s = false → s.phase = .idle → s.env.cmdIn = b :: rest → s.cbuf = [] →
    b ∉ ([0x01, 0x10, 0x11, 0x12, 0x13, 0x14, 0x20, 0x21, 0x22, 0x23, 0x24, 0x25, 0x30, 0x31, 0x32, 0x33] :
      List Byte) →
    step s = .next { s with
      flags := { s.flags with ill := true }
      env := { s.env with cmdIn := rest, turns := s.env.turns.tail, draws := s.env.draws + 1 } }

/-- 10_state.md R28, 20_memory.md R57, 70_reset_and_hazards.md R246: while the block is busy no turn but hardware reset
accepts a byte of the port or writes a buffer; SYS.INIT alone writes `LB`. -/
def Obligations.BusyBlockKeepsPortAndBuffers : Prop :=
  ∀ (s t : State), busy s = true → nextTurn s ≠ .reset → step s = .next t →
    t.env.cmdIn = s.env.cmdIn ∧ t.cbuf = s.cbuf ∧ (∀ a, t.fb.read a = s.fb.read a) ∧
    (s.kind ≠ .init → ∀ a, t.lb.read a = s.lb.read a)

/-! ### Reset -/

/-- R34: `State.reset` has the reset value of every row, and so has the state that the turn of hardware reset leaves,
from every state and on the same instance (R240). -/
def Obligations.ResetLeavesTheSpecValues : Prop :=
  ResetRows State.reset ∧
  (∀ s : State, s.params.geometryOk = true → nextTurn s = .reset →
    ∃ t, step s = .next t ∧ t.params = s.params ∧ ResetRows t)

/-- The state after reset of any legal instance meets the invariant and the trace discipline; the instance of
`State.reset` is legal whatever its open parameters are (R5 to R7, R34; the instance is log 2's). -/
def Obligations.ResetMeetsTheInvariant : Prop :=
  (∀ (p : Params) (o : Outside), p.legal = true → Inv (State.resetWith p o) ∧ TraceInv (State.resetWith p o)) ∧
  State.reset.params.legal = true ∧ Inv State.reset

/-! ### Line buffer commands (41_line_buffer.md) -/

/-- R111: opcode `0x10`; the reserved operand first, then the range, then one bit; every other bit, byte and piece of state stays. -/
def Obligations.LbSetPixelWritesOneBit : Prop :=
  ∀ (s : State) (col : U16) (white : Byte), s.params.geometryOk = true →
    decode (0x10 :: (u16Bytes col ++ [white])) = .ok (.lbSetPixel col white, []) ∧
    (white ≠ 0x00 → white ≠ 0x01 →
      exec (.lbSetPixel col white) s = .next { s with flags := { s.flags with ill := true } }) ∧
    (white = 0x00 ∨ white = 0x01 → col.toNat < 1 ∨ s.params.width < col.toNat →
      exec (.lbSetPixel col white) s = .next { s with flags := { s.flags with drop := true } }) ∧
    (white = 0x00 ∨ white = 0x01 → 1 ≤ col.toNat → col.toNat ≤ s.params.width → s.lb.wf = true →
      ∃ t, exec (.lbSetPixel col white) s = .next t ∧
        t = { s with lb := t.lb, flags := { s.flags with drop := false } } ∧
        (t.lb.read ((col.toNat - 1) / 8)).getLsbD (7 - (col.toNat - 1) % 8) = (white == 0x01) ∧
        (∀ i, i ≠ 7 - (col.toNat - 1) % 8 →
          (t.lb.read ((col.toNat - 1) / 8)).getLsbD i = (s.lb.read ((col.toNat - 1) / 8)).getLsbD i) ∧
        (∀ a, a ≠ (col.toNat - 1) / 8 → t.lb.read a = s.lb.read a))

/-- R112: opcode `0x11`; out of range is dropped; else one byte is overwritten, and nothing else changes but `DROP`. -/
def Obligations.LbSetByteWritesOneByte : Prop :=
  ∀ (s : State) (idx : U16) (value : Byte), s.params.geometryOk = true →
    decode (0x11 :: (u16Bytes idx ++ [value])) = .ok (.lbSetByte idx value, []) ∧
    (idx.toNat < 1 ∨ s.params.bpr < idx.toNat →
      exec (.lbSetByte idx value) s = .next { s with flags := { s.flags with drop := true } }) ∧
    (1 ≤ idx.toNat → idx.toNat ≤ s.params.bpr → s.lb.wf = true →
      ∃ t, exec (.lbSetByte idx value) s = .next t ∧
        t = { s with lb := t.lb, flags := { s.flags with drop := false } } ∧
        t.lb.read (idx.toNat - 1) = value ∧
        (∀ a, a ≠ idx.toNat - 1 → t.lb.read a = s.lb.read a))

/-- R113: opcode `0x12`; either index out of range drops the whole command; else the destination byte becomes the source byte. -/
def Obligations.LbCopyByteCopiesOneByte : Prop :=
  ∀ (s : State) (src dst : U16), s.params.geometryOk = true →
    decode (0x12 :: (u16Bytes src ++ u16Bytes dst)) = .ok (.lbCopyByte src dst, []) ∧
    (src.toNat < 1 ∨ s.params.bpr < src.toNat ∨ dst.toNat < 1 ∨ s.params.bpr < dst.toNat →
      exec (.lbCopyByte src dst) s = .next { s with flags := { s.flags with drop := true } }) ∧
    (1 ≤ src.toNat → src.toNat ≤ s.params.bpr → 1 ≤ dst.toNat → dst.toNat ≤ s.params.bpr → s.lb.wf = true →
      ∃ t, exec (.lbCopyByte src dst) s = .next t ∧
        t = { s with lb := t.lb, flags := { s.flags with drop := false } } ∧
        t.lb.read (dst.toNat - 1) = s.lb.read (src.toNat - 1) ∧
        (∀ a, a ≠ dst.toNat - 1 → t.lb.read a = s.lb.read a))

/-- R114, R115: opcodes `0x13`, `0x14`; every byte of `LB` becomes `0x00` or `0xFF`; no flag and no other state changes. -/
def Obligations.LbFillsWriteEveryByte : Prop :=
  ∀ (s : State), s.lb.wf = true →
    decode [0x13] = .ok (.lbFillBlack, []) ∧ decode [0x14] = .ok (.lbFillWhite, []) ∧
    (∃ t, exec .lbFillBlack s = .next t ∧ t = { s with lb := t.lb } ∧
      ∀ a, t.lb.read a = if a < s.params.bpr then 0x00 else s.lb.read a) ∧
    (∃ t, exec .lbFillWhite s = .next t ∧ t = { s with lb := t.lb } ∧
      ∀ a, t.lb.read a = if a < s.params.bpr then 0xFF else s.lb.read a)

/-! ### Frame buffer commands (42_frame_buffer.md) -/

/-- R131: opcode `0x20`; the reserved operand first, then column and line, then one bit of byte `(line-1)*BPR + (col-1) div 8`. -/
def Obligations.FbSetPixelWritesOneBit : Prop :=
  ∀ (s : State) (col line : U16) (white : Byte), s.params.geometryOk = true →
    let a := (line.toNat - 1) * s.params.bpr + (col.toNat - 1) / 8
    let i := 7 - (col.toNat - 1) % 8
    decode (0x20 :: (u16Bytes col ++ u16Bytes line ++ [white])) = .ok (.fbSetPixel col line white, []) ∧
    (white ≠ 0x00 → white ≠ 0x01 →
      exec (.fbSetPixel col line white) s = .next { s with flags := { s.flags with ill := true } }) ∧
    (white = 0x00 ∨ white = 0x01 →
      col.toNat < 1 ∨ s.params.width < col.toNat ∨ line.toNat < 1 ∨ s.params.height < line.toNat →
      exec (.fbSetPixel col line white) s = .next { s with flags := { s.flags with drop := true } }) ∧
    (white = 0x00 ∨ white = 0x01 → 1 ≤ col.toNat → col.toNat ≤ s.params.width → 1 ≤ line.toNat →
      line.toNat ≤ s.params.height → s.fb.wf = true →
      ∃ t, exec (.fbSetPixel col line white) s = .next t ∧
        t = { s with fb := t.fb, flags := { s.flags with drop := false } } ∧
        (t.fb.read a).getLsbD i = (white == 0x01) ∧
        (∀ k, k ≠ i → (t.fb.read a).getLsbD k = (s.fb.read a).getLsbD k) ∧
        (∀ x, x ≠ a → t.fb.read x = s.fb.read x))

/-- R132: opcode `0x21`; an index or line out of range drops the command; else the byte `(line-1)*BPR + (idx-1)` is overwritten. -/
def Obligations.FbSetByteWritesOneByte : Prop :=
  ∀ (s : State) (idx line : U16) (value : Byte), s.params.geometryOk = true →
    let a := (line.toNat - 1) * s.params.bpr + (idx.toNat - 1)
    decode (0x21 :: (u16Bytes idx ++ u16Bytes line ++ [value])) = .ok (.fbSetByte idx line value, []) ∧
    (idx.toNat < 1 ∨ s.params.bpr < idx.toNat ∨ line.toNat < 1 ∨ s.params.height < line.toNat →
      exec (.fbSetByte idx line value) s = .next { s with flags := { s.flags with drop := true } }) ∧
    (1 ≤ idx.toNat → idx.toNat ≤ s.params.bpr → 1 ≤ line.toNat → line.toNat ≤ s.params.height → s.fb.wf = true →
      ∃ t, exec (.fbSetByte idx line value) s = .next t ∧
        t = { s with fb := t.fb, flags := { s.flags with drop := false } } ∧
        t.fb.read a = value ∧ (∀ x, x ≠ a → t.fb.read x = s.fb.read x))

/-- R133: opcode `0x22`; any of the four operands out of range drops the command; else one byte of `FB` is copied. -/
def Obligations.FbCopyByteCopiesOneByte : Prop :=
  ∀ (s : State) (sidx sline didx dline : U16), s.params.geometryOk = true →
    let src := (sline.toNat - 1) * s.params.bpr + (sidx.toNat - 1)
    let dst := (dline.toNat - 1) * s.params.bpr + (didx.toNat - 1)
    decode (0x22 :: (u16Bytes sidx ++ u16Bytes sline ++ u16Bytes didx ++ u16Bytes dline)) =
      .ok (.fbCopyByte sidx sline didx dline, []) ∧
    (sidx.toNat < 1 ∨ s.params.bpr < sidx.toNat ∨ sline.toNat < 1 ∨ s.params.height < sline.toNat ∨
      didx.toNat < 1 ∨ s.params.bpr < didx.toNat ∨ dline.toNat < 1 ∨ s.params.height < dline.toNat →
      exec (.fbCopyByte sidx sline didx dline) s = .next { s with flags := { s.flags with drop := true } }) ∧
    (1 ≤ sidx.toNat → sidx.toNat ≤ s.params.bpr → 1 ≤ sline.toNat → sline.toNat ≤ s.params.height →
      1 ≤ didx.toNat → didx.toNat ≤ s.params.bpr → 1 ≤ dline.toNat → dline.toNat ≤ s.params.height →
      s.fb.wf = true →
      ∃ t, exec (.fbCopyByte sidx sline didx dline) s = .next t ∧
        t = { s with fb := t.fb, flags := { s.flags with drop := false } } ∧
        t.fb.read dst = s.fb.read src ∧ (∀ x, x ≠ dst → t.fb.read x = s.fb.read x))

/-- R134, R135: opcodes `0x23`, `0x24`; every byte of `FB` becomes `0x00` or `0xFF`; no flag and no other state changes. -/
def Obligations.FbFillsWriteEveryByte : Prop :=
  ∀ (s : State), s.fb.wf = true →
    decode [0x23] = .ok (.fbFillBlack, []) ∧ decode [0x24] = .ok (.fbFillWhite, []) ∧
    (∃ t, exec .fbFillBlack s = .next t ∧ t = { s with fb := t.fb } ∧
      ∀ a, t.fb.read a = if a < s.params.fbLen then 0x00 else s.fb.read a) ∧
    (∃ t, exec .fbFillWhite s = .next t ∧ t = { s with fb := t.fb } ∧
      ∀ a, t.fb.read a = if a < s.params.fbLen then 0xFF else s.fb.read a)

/-- R136: opcode `0x25`; a payload of `FB_LEN` bytes replaces every byte of `FB` and clears `IMG_ERR`; any other length sets `IMG_ERR`
and changes nothing else. -/
def Obligations.FbLoadImageReplacesAllOrNothing : Prop :=
  ∀ (s : State) (payload : List Byte), s.fb.wf = true →
    (payload.length < 4294967296 →
      decode (0x25 :: (u32Bytes (BitVec.ofNat 32 payload.length) ++ payload)) = .ok (.fbLoadImage payload, [])) ∧
    (payload.length = s.params.fbLen →
      ∃ t, exec (.fbLoadImage payload) s = .next t ∧
        t = { s with fb := t.fb, flags := { s.flags with imgErr := false } } ∧
        (∀ a (h : a < payload.length), t.fb.read a = payload[a]) ∧
        (∀ a, payload.length ≤ a → t.fb.read a = s.fb.read a)) ∧
    (payload.length ≠ s.params.fbLen →
      exec (.fbLoadImage payload) s = .next { s with flags := { s.flags with imgErr := true } })

/-! ### Acceptance of the transmit commands and of SYS.INIT (43_transmit.md, 45_lifecycle.md) -/

/-- R88, R74: the command of the reserved opcode has no effect but `STATUS.ILL <- 1`, in every state. That it is
a command of its own is log 15. -/
def Obligations.ReservedNopSetsOnlyIll : Prop :=
  ∀ (s : State), exec .panelNop s = .next { s with flags := { s.flags with ill := true } }

/-- R151: before `LIFE = READY` each of the four transmit commands is rejected and loads nothing. -/
def Obligations.TransmitBeforeReadyIsRejected : Prop :=
  ∀ (s : State), s.life ≠ .ready →
    (∀ (start count row : U16) (srcsel : Byte),
      exec (.txSendLines start count srcsel row) s = .next { s with flags := { s.flags with ill := true } }) ∧
    (∀ line : U16, exec (.txWriteLb line) s = .next { s with flags := { s.flags with ill := true } }) ∧
    exec .txWriteFb s = .next { s with flags := { s.flags with ill := true } } ∧
    exec .panelClear s = .next { s with flags := { s.flags with ill := true } }

/-- R152, with R155 for the line buffer: a request that names a line outside the panel or a byte outside its source is
rejected (log 21); a reserved `srcsel` is rejected in every lifecycle state (R75). -/
def Obligations.IllFormedRequestsAreRejected : Prop :=
  ∀ (s : State) (start count row : U16),
    (∀ srcsel : Byte, srcsel ≠ 0x00 → srcsel ≠ 0x01 →
      exec (.txSendLines start count srcsel row) s = .next { s with flags := { s.flags with ill := true } }) ∧
    (¬ (1 ≤ start.toNat ∧ start.toNat + count.toNat ≤ s.params.height + 1 ∧ row.toNat = 1 ∧ count.toNat ≤ 1) →
      exec (.txSendLines start count 0x00 row) s = .next { s with flags := { s.flags with ill := true } }) ∧
    (¬ (1 ≤ start.toNat ∧ start.toNat + count.toNat ≤ s.params.height + 1 ∧ 1 ≤ row.toNat ∧
        row.toNat + count.toNat ≤ s.params.height + 1) →
      exec (.txSendLines start count 0x01 row) s = .next { s with flags := { s.flags with ill := true } }) ∧
    (¬ (1 ≤ start.toNat ∧ start.toNat ≤ s.params.height) →
      exec (.txWriteLb start) s = .next { s with flags := { s.flags with ill := true } })

/-- R153 to R156, acceptance: in `LIFE = READY` a well-formed request of each of the three Write-Lines commands loads
the sequencer; it then has `7 + n * (BPR + 2)` steps to run (R162). -/
def Obligations.WellFormedRequestsLoadTheSequencer : Prop :=
  ∀ (s : State), s.params.geometryOk = true → s.life = .ready →
    (∀ (start count row : U16), 1 ≤ start.toNat → start.toNat + count.toNat ≤ s.params.height + 1 →
      row.toNat = 1 → count.toNat ≤ 1 →
      ∃ t, exec (.txSendLines start count 0x00 row) s = .next t ∧
        acceptedAs s t start.toNat count.toNat .lb row.toNat) ∧
    (∀ (start count row : U16), 1 ≤ start.toNat → start.toNat + count.toNat ≤ s.params.height + 1 →
      1 ≤ row.toNat → row.toNat + count.toNat ≤ s.params.height + 1 →
      ∃ t, exec (.txSendLines start count 0x01 row) s = .next t ∧
        acceptedAs s t start.toNat count.toNat .fb row.toNat) ∧
    (∀ line : U16, 1 ≤ line.toNat → line.toNat ≤ s.params.height →
      ∃ t, exec (.txWriteLb line) s = .next t ∧ acceptedAs s t line.toNat 1 .lb 1) ∧
    (∃ t, exec .txWriteFb s = .next t ∧ acceptedAs s t 1 s.params.height .fb 1)

/-- R157, acceptance: PANEL.CLEAR in `LIFE = READY` sets `KIND`, clears `TX_FAIL` and starts; nothing else changes. -/
def Obligations.PanelClearStartsTheSequencer : Prop :=
  ∀ (s : State), s.life = .ready →
    exec .panelClear s = .next { s with
      kind := .clear, flags := { s.flags with txFail := false }, phase := .t1 }

/-- R196, acceptance step, with R197 and R198: rejected unless `LIFE = UNINIT`; then the peripheral check is drawn once,
and on failure nothing but `INIT_FAIL` and `LIFE` changes. The draw's place in the outside is the model's (log 5). -/
def Obligations.SysInitIsAcceptedOnce : Prop :=
  ∀ (s : State),
    (s.life ≠ .uninit → exec .sysInit s = .next { s with flags := { s.flags with ill := true } }) ∧
    (s.life = .uninit → s.env.periphAnswer = false →
      exec .sysInit s = .next { s with
        life := .failed, flags := { s.flags with initFail := true }, env := s.env.afterPeriph }) ∧
    (s.life = .uninit → s.env.periphAnswer = true →
      exec .sysInit s = .next { s with life := .initing, kind := .init, phase := .i1a, env := s.env.afterPeriph })

/-! ### The running sequences -/

/-- R199: from an accepted SYS.INIT, fourteen sequencer steps emit the twelve events in order and leave every pin, the
timer, `LB`, `LIFE` and `STATUS` as R199 lists them, and `FB` unchanged. -/
def Obligations.PowerUpSequenceEndsReady : Prop :=
  ∀ (s : State), Inv s → s.life = .uninit → s.phase = .idle → s.env.periphAnswer = true →
    ∃ t u, exec .sysInit s = .next t ∧ seqRun 14 t = .next u ∧
      u.out = s.out ++ initEvents s.params ∧
      u.pins = ⟨⟨true, some .low⟩, ⟨true, some .high⟩, ⟨true, some .low⟩⟩ ∧
      u.polRun = true ∧ u.polState = .low ∧
      (∀ a, a < s.params.bpr → u.lb.read a = 0xFF) ∧ (∀ a, u.fb.read a = s.fb.read a) ∧
      u.life = .ready ∧ u.phase = .idle ∧
      statusReg u = 0x02 ||| (statusReg s &&& 0x70)

/-- R82, R83: where each byte of a Write-Lines frame stands, and how long the two frames are. -/
def Obligations.WriteFrameIsLaidOutAsTheSpecSays : Prop :=
  ∀ (p : Params) (m : Memory) (l n r : Nat),
    let f := writeFrame p m l n r
    f.length = 2 + n * (p.bpr + 2) ∧ (clearFrame p).length = 2 ∧
    f[0]? = some p.modeWrite ∧
    (∀ k, k < n →
      f[1 + k * (p.bpr + 2)]? = some (rev8 (BitVec.ofNat 8 (l + k))) ∧
      (∀ j, j < p.bpr → f[2 + k * (p.bpr + 2) + j]? = some (m.read ((r - 1) * p.bpr + (k * p.bpr + j)))) ∧
      f[1 + k * (p.bpr + 2) + p.bpr + 1]? = some 0x00) ∧
    f[1 + n * (p.bpr + 2)]? = some 0x00

/-- R153, last sentence: an accepted well-formed TX.SENDLINES runs to `IDLE` in `7 + count * (BPR + 2)` sequencer steps
(R162), having emitted the envelope of R80 around the frame of R82, and writes no buffer byte (R150). -/
def Obligations.SendLinesEmitsItsFrame : Prop :=
  ∀ (s : State) (start count row : U16) (sp : Space), Inv s → s.phase = .idle → s.life = .ready →
    wellFormedRequest s.params start.toNat count.toNat sp row.toNat = true →
    ∃ t u, exec (.txSendLines start count (match sp with | .lb => 0x00 | .fb => 0x01) row) s = .next t ∧
      seqRun (7 + count.toNat * (s.params.bpr + 2)) t = .next u ∧
      u.phase = .idle ∧
      u.out = s.out ++ envelope s.params (writeFrame s.params (s.mem sp) start.toNat count.toNat row.toNat) ∧
      (∀ a, u.lb.read a = s.lb.read a) ∧ (∀ a, u.fb.read a = s.fb.read a)

/-- R155, R156 and R157, R158: the same for TX.WRITELB (one group, from `LB`), TX.WRITEFB (`HEIGHT` groups, from `FB`)
and PANEL.CLEAR (the Clear frame, seven steps). -/
def Obligations.WrappersAndClearEmitTheirFrames : Prop :=
  ∀ (s : State), Inv s → s.phase = .idle → s.life = .ready →
    (∀ line : U16, 1 ≤ line.toNat → line.toNat ≤ s.params.height →
      ∃ t u, exec (.txWriteLb line) s = .next t ∧ seqRun (7 + (s.params.bpr + 2)) t = .next u ∧
        u.phase = .idle ∧ u.out = s.out ++ envelope s.params (writeFrame s.params s.lb line.toNat 1 1)) ∧
    (∃ t u, exec .txWriteFb s = .next t ∧ seqRun (7 + s.params.height * (s.params.bpr + 2)) t = .next u ∧
      u.phase = .idle ∧ u.out = s.out ++ envelope s.params (writeFrame s.params s.fb 1 s.params.height 1)) ∧
    (∃ t u, exec .panelClear s = .next t ∧ seqRun 7 t = .next u ∧
      u.phase = .idle ∧ u.out = s.out ++ envelope s.params (clearFrame s.params))

/-- R162: every sequencer step of a running sequence brings its end one step nearer, so none runs for ever. -/
def Obligations.EverySequencerStepCountsDown : Prop :=
  ∀ (s : State), Inv s → busy s = true →
    ∃ t, seqStep s = .next t ∧ stepsLeft t + 1 = stepsLeft s ∧ (busy t = false ↔ stepsLeft t = 0)

/-- R159: whatever the environment answers, the sequencer makes the same step; only `TX_FAIL` can differ. -/
def Obligations.AnswersNeverChangeTheSequence : Prop :=
  ∀ (s t : State) (o : Outside), seqStep s = .next t →
    ∃ t', seqStep { s with env := o } = .next t' ∧
      t' = { t with env := t'.env, flags := { t.flags with txFail := t'.flags.txFail } }

/-- R214: a step that emits `Tx(b)` draws one answer and sets `TX_FAIL` if it is failure; no other step of a sequence
draws an answer or writes a flag. Where the answer is held is log 5's. -/
def Obligations.FailedBytesSetTxFail : Prop :=
  ∀ (s t : State), seqStep s = .next t →
    (∀ b, t.out = s.out ++ [.tx b] →
      t.flags = { s.flags with txFail := s.flags.txFail || !s.env.txAnswer } ∧ t.env = s.env.afterTx) ∧
    ((∀ b, t.out ≠ s.out ++ [.tx b]) → t.flags = s.flags ∧ t.env = s.env)

/-! ### The polarity timer (44_polarity_timer.md) -/

/-- R183, untimed form: enabled exactly when running and, under `LOCKED`, the lock is free; then the state flips, the new
level goes to the pin, and nothing else changes. A turn given to a disabled timer passes (log 6). -/
def Obligations.TimerStepTogglesThePin : Prop :=
  ∀ (s : State), s.params.geometryOk = true → s.params.form = .untimed → nextTurn s = .timer →
    let o := { s.env with turns := s.env.turns.tail, draws := s.env.draws + 1 }
    let v : Level := if s.polState = .low then .high else .low
    (s.polRun = true → s.params.polArb = .free ∨ lockOf s = .free →
      step s = .next { s with
        polState := v, pins := { s.pins with pol := { s.pins.pol with level := some v } },
        out := s.out ++ [.pin .pol v], env := o }) ∧
    (¬ (s.polRun = true ∧ (s.params.polArb = .free ∨ lockOf s = .free)) → step s = .next { s with env := o })

/-- R184, timed form: a microsecond counts `POL_CNT` down; where it runs out the toggle is due if the pin is free and pending
if it is locked, and stays so until it can happen (R186); a toggle that is due or pending and enabled happens at the timer's
next turn, before any time passes, and the next half-period counts from the write; a stopped timer only lets time pass. One
turn is one microsecond (log 9). What a microsecond does to a running delay is R227 (log 10). -/
def Obligations.TimedTimerCountsAndDefers : Prop :=
  ∀ (s : State), s.params.geometryOk = true → s.params.form = .timed → nextTurn s = .timer →
    let o := { s.env with turns := s.env.turns.tail, draws := s.env.draws + 1 }
    let v : Level := if s.polState = .low then .high else .low
    (s.polRun = false → step s = .next { s with waitLeft := s.waitLeft - 1, env := o }) ∧
    (s.polRun = true → s.polPend = false → 2 ≤ s.polCnt →
      step s = .next { s with polCnt := s.polCnt - 1, waitLeft := s.waitLeft - 1, env := o }) ∧
    (s.polRun = true → s.polPend = false → s.polCnt = 1 → polEnabled s = true →
      step s = .next { s with polCnt := 0, waitLeft := s.waitLeft - 1, env := o }) ∧
    (s.polRun = true → s.polPend = false → s.polCnt ≤ 1 → polEnabled s = false →
      step s = .next { s with polCnt := 0, polPend := true, waitLeft := s.waitLeft - 1, env := o }) ∧
    (s.polRun = true → s.polPend = true → polEnabled s = false →
      step s = .next { s with waitLeft := s.waitLeft - 1, env := o }) ∧
    (s.polRun = true → s.polPend = true ∨ s.polCnt = 0 → polEnabled s = true →
      step s = .next { s with
        polState := v, pins := { s.pins with pol := { s.pins.pol with level := some v } },
        out := s.out ++ [.pin .pol v], polCnt := s.params.tPol, polPend := false, env := o })

/-- R218 (b), timed form: where a toggle is due at the instant at which the sequencer's next step may come, both orders happen:
at a turn of the main timeline that step, at a turn of the timer the toggle, which leaves the sequencer where it was. Under
`LOCKED`, if `T1` goes first the toggle is pending and not enabled. The microsecond that ends the last delay is such an
instant: it makes the toggle due and leaves it to the next turn. That a turn of the timer is one microsecond, and that the
microsecond itself only makes the toggle due where R184 says "at once", is the model's choice (log 9); how a running delay is
held is log 10's. -/
def Obligations.ExpiryAndSequencerStepComeInEitherOrder : Prop :=
  ∀ (s : State), Inv s → s.params.form = .timed → busy s = true →
    (polDueNow s = true → s.waitLeft = 0 →
      (nextTurn s = .main →
        step s = seqStep { s with env := { s.env with turns := s.env.turns.tail, draws := s.env.draws + 1 } } ∧
        (s.kind ≠ .init → s.phase = .t1 → s.params.polArb = .locked →
          ∃ t, step s = .next t ∧ t.phase = .t2 ∧ t.out = s.out ++ [.pin .sel .high] ∧ t.polState = s.polState ∧
            t.polPend = true ∧ polEnabled t = false)) ∧
      (nextTurn s = .timer →
        ∃ t v, step s = .next t ∧ t.out = s.out ++ [.pin .pol v] ∧ t.phase = s.phase ∧ t.waitLeft = 0)) ∧
    (s.polPend = false → s.polCnt = 1 → s.waitLeft = 1 → polEnabled s = true → nextTurn s = .timer →
      ∃ t, step s = .next t ∧ polDueNow t = true ∧ t.waitLeft = 0 ∧ t.out = s.out ∧ t.phase = s.phase)

/-- R186, `LOCKED`: while the lock is held, no step that is not hardware reset emits a polarity write: the
polarity writes of the trace are those it had. -/
def Obligations.NoPolarityWriteWhileLocked : Prop :=
  ∀ (s t : State), s.params.polArb = .locked → lockOf s = .tx → nextTurn s ≠ .reset → step s = .next t →
    polWrites t.out = polWrites s.out

/-- R187: a turn of the timer touches no buffer, no `Tx`, no `SEL`, no `DISP`, no flag and no sequencer register. -/
def Obligations.TimerTouchesOnlyPolarity : Prop :=
  ∀ (s t : State), nextTurn s = .timer → step s = .next t →
    t.lb = s.lb ∧ t.fb = s.fb ∧ t.pins.sel = s.pins.sel ∧ t.pins.disp = s.pins.disp ∧
    t.pins.pol.cfg = s.pins.pol.cfg ∧ t.flags = s.flags ∧ statusReg t = statusReg s ∧
    t.kind = s.kind ∧ t.phase = s.phase ∧ t.addr = s.addr ∧ t.linesLeft = s.linesLeft ∧ t.byteIdx = s.byteIdx ∧
    t.srcSpace = s.srcSpace ∧ t.srcPtr = s.srcPtr ∧ t.life = s.life ∧ t.cbuf = s.cbuf ∧
    t.env.cmdIn = s.env.cmdIn ∧ noPol t.out = noPol s.out

/-- R188: nothing but hardware reset stops the timer. -/
def Obligations.OnlyResetStopsTheTimer : Prop :=
  ∀ (s t : State), s.polRun = true → nextTurn s ≠ .reset → step s = .next t → t.polRun = true

/-- R185: once SYS.INIT has completed, a pin that shows `POL_STATE` goes on showing it, and a step either leaves the pin and
the state and writes no polarity, or makes one write, of the level the state was not at, after which both are at it. -/
def Obligations.PinFollowsPolarityStateAfterInit : Prop :=
  ∀ (s t : State), Inv s → s.life = .ready → nextTurn s ≠ .reset → step s = .next t →
    let v : Level := if s.polState = .low then .high else .low
    (s.pins.pol.level = some s.polState → t.pins.pol.level = some t.polState) ∧
    ((polWrites t.out = polWrites s.out ∧ t.polState = s.polState ∧ t.pins.pol = s.pins.pol) ∨
      (t.out = s.out ++ [.pin .pol v] ∧ t.polState = v ∧ t.pins.pol.level = some v))

/-- R185: the sequencer's own writes of the polarity pin, at `I5c` and `I8`, leave the timer's state; of all sequencer steps
only `I3` writes it, starting the timer from Low with a full half-period (R182, R196), but that a `T1` under `LOCKED` makes a
toggle that is due a pending one (R218 (b), R32). -/
def Obligations.SequencerLeavesTheTimerState : Prop :=
  ∀ (s t : State), seqStep s = .next t →
    (s.kind = .init → s.phase = .i5c ∨ s.phase = .i8 →
      t.out = s.out ++ [.pin .pol .low] ∧ t.pins.pol.level = some .low) ∧
    (¬ (s.kind = .init ∧ s.phase = .i3) →
      t.polState = s.polState ∧ t.polRun = s.polRun ∧ t.polCnt = s.polCnt) ∧
    (s.kind = .init ∨ s.phase ≠ .t1 → t.polPend = s.polPend) ∧
    (s.kind ≠ .init → s.phase = .t1 →
      (t.polPend = true ↔ s.polPend = true ∨
        s.params.form = .timed ∧ s.polRun = true ∧ s.polCnt = 0 ∧ s.params.polArb = .locked)) ∧
    (s.kind = .init → s.phase = .i3 →
      t.polState = .low ∧ t.polRun = true ∧ t.polCnt = s.params.tPol ∧ t.out = s.out ∧ t.pins = s.pins)

/-! ### Registers, flags, delays -/

/-- R27: which field each bit of `STATUS` is. -/
def Obligations.StatusBitsAreTheFields : Prop :=
  ∀ (s : State),
    (statusReg s).getLsbD 0 = decide (s.phase ≠ .idle) ∧ (statusReg s).getLsbD 1 = decide (s.life = .ready) ∧
    (statusReg s).getLsbD 2 = s.flags.initFail ∧ (statusReg s).getLsbD 3 = s.flags.txFail ∧
    (statusReg s).getLsbD 4 = s.flags.imgErr ∧ (statusReg s).getLsbD 5 = s.flags.drop ∧
    (statusReg s).getLsbD 6 = s.flags.ill ∧ (statusReg s).getLsbD 7 = false

/-- R26, R200: a host read, allowed in every state, returns `STATUS`, `WIDTH` or `HEIGHT` and changes nothing of the
block; another number returns some value. The record of the value and its 16 bits are the model's (log 8). -/
def Obligations.HostReadsReturnTheRegisters : Prop :=
  ∀ (s : State) (n : Nat), s.params.geometryOk = true → nextTurn s = .read n →
    ∃ v : BitVec 16,
      step s = .next { s with env := { s.env with
        turns := s.env.turns.tail, draws := s.env.draws + 2, reads := s.env.reads ++ [⟨n, v⟩] } } ∧
      (n = 0 → v.toNat = (statusReg s).toNat) ∧ (n = 1 → v.toNat = s.params.width) ∧
      (n = 2 → v.toNat = s.params.height)

/-- R220, R27: `ILL`, `INIT_FAIL` and `LIFE = FAILED` are cleared by hardware reset only, and `READY` is never lost. -/
def Obligations.StickyBitsStayUntilReset : Prop :=
  ∀ (s t : State), Inv s → nextTurn s ≠ .reset → step s = .next t →
    (s.flags.ill = true → t.flags.ill = true) ∧ (s.flags.initFail = true → t.flags.initFail = true) ∧
    (s.life = .failed → t.life = .failed) ∧ (s.life = .ready → t.life = .ready)

/-- R227, timed form: a `Delay(d)` of the sequencer holds up the main timeline for `d` microseconds of turns: while some
are left its turn passes and changes nothing, and a turn of the timer takes exactly one off, unless it makes a toggle
that is due, which like every other turn takes none. One turn is one microsecond (log 9). That the port waits too is log 10. -/
def Obligations.TimedDelaysHoldTheMainTimeline : Prop :=
  ∀ (s : State), s.params.geometryOk = true → s.params.form = .timed →
    (∀ (t : State) (d : Nat), seqStep s = .next t → t.out = s.out ++ [.delay d] → t.waitLeft = d) ∧
    (nextTurn s = .main → 0 < s.waitLeft →
      step s = .next { s with env := { s.env with turns := s.env.turns.tail, draws := s.env.draws + 1 } }) ∧
    (∀ t : State, step s = .next t → 0 < s.waitLeft → nextTurn s ≠ .reset →
      (nextTurn s = .timer → polDueNow s = false → t.waitLeft = s.waitLeft - 1) ∧
      (nextTurn s ≠ .timer ∨ polDueNow s = true → t.waitLeft = s.waitLeft))

/-- R229, last rows, and U14: no step changes a parameter; a state whose geometry is no legal instance is refused.
That the parameters stand in State, and that the refusal is the step's, are logs 1 and 16. -/
def Obligations.InstanceNeverChanges : Prop :=
  ∀ (s t : State),
    (step s = .next t → t.params = s.params) ∧
    (s.params.geometryOk = false → step s = .refused .illegalInstance)

/-! ### The bit codec and the wire (40_bit_codec.md, R87) -/

/-- R100: bit `i` of the result is bit `7 - i` of the operand. -/
def Obligations.RevEightReversesTheBits : Prop :=
  ∀ (b : Byte) (i : Nat), i < 8 → (rev8 b).getLsbD i = b.getLsbD (7 - i)

/-- R102: involution, bijection, the sixteen fixed points, distribution over the bitwise operations, not monotone. -/
def Obligations.RevEightLaws : Prop :=
  (∀ b : Byte, rev8 (rev8 b) = b) ∧ (∀ b c : Byte, rev8 b = rev8 c → b = c) ∧ (∀ c : Byte, ∃ b, rev8 b = c) ∧
  (∀ b : Byte, rev8 b = b ↔ b ∈ ([0x00, 0x18, 0x24, 0x3C, 0x42, 0x5A, 0x66, 0x7E, 0x81, 0x99, 0xA5, 0xBD, 0xC3,
    0xDB, 0xE7, 0xFF] : List Byte)) ∧
  (∀ b c : Byte, rev8 (b &&& c) = rev8 b &&& rev8 c ∧ rev8 (b ||| c) = rev8 b ||| rev8 c ∧
    rev8 (b ^^^ c) = rev8 b ^^^ rev8 c ∧ rev8 (~~~b) = ~~~(rev8 b)) ∧
  rev8 1 = 0x80 ∧ rev8 2 = 0x40 ∧ rev8 3 = 0xC0

/-- R87: on the wire a line address goes out least significant bit first, and the data bytes of row `r` give that row's
pixels in column order, a `1` for white. -/
def Obligations.WireOrderOfAddressAndPixels : Prop :=
  (∀ a : Byte, wireBits (rev8 a) = (List.range 8).map fun i => a.getLsbD i) ∧
  (∀ (s : State) (sp : Space) (r : Nat),
    (bytesAt (s.mem sp) ((r - 1) * s.params.bpr) s.params.bpr).flatMap wireBits =
      (List.range (8 * s.params.bpr)).map fun c => pixelAt sp r (c + 1) s)

/-! ### The whole machine -/

/-- Every step from a state that meets the invariant leads to one that meets it: legal instance, canonical memories
inside their buffers, `CBUF` incomplete, sequencer registers inside their ranges, pins, timer and `LIFE` in agreement. -/
def Obligations.StepKeepsTheInvariant : Prop :=
  ∀ (s t : State), Inv s → step s = .next t → Inv t

/-- R219, R74, 20_memory.md R56: no error class stops the block; a state that meets the invariant always has a next
state, whoever's turn it is and whatever the environment answers. -/
def Obligations.LegalMachineNeverStops : Prop :=
  ∀ (s : State), Inv s → ∃ t, step s = .next t

/-- R80, R89, R186: every step keeps the discipline of the output trace: envelopes in order with their delays, mode bytes,
ascending line addresses, `BPR` data bytes a group, zero padding, no `Tx` outside, the inter-frame delay between
transactions, and under `LOCKED` no polarity write inside the select window. -/
def Obligations.StepKeepsTheTraceDiscipline : Prop :=
  ∀ (s t : State), Inv s → TraceInv s → step s = .next t → TraceInv t

/-- R57, R187, R159: while a sequence runs, every step of every agent but hardware reset leaves the same trace in view,
polarity writes apart: what has been emitted followed by what is still to be emitted. -/
def Obligations.EveryInterleavingLeavesTheSameTrace : Prop :=
  ∀ (s t : State), Inv s → busy s = true → nextTurn s ≠ .reset → step s = .next t →
    noPol t.out ++ noPol (remaining t) = noPol s.out ++ noPol (remaining s)

/-- R153 to R158 with R57, R159, R183 and R187: the host issues one of the four transmit commands and writes nothing more;
then after any number of steps, under every schedule without a hardware reset and whatever the environment answers, if the
block is idle again the panel has been sent the envelope around the command's frame, with the buffer as it was at
acceptance, polarity writes apart. How schedules and answers are held is logs 5 and 6. -/
def Obligations.FlushEmitsItsFrameUnderEverySchedule : Prop :=
  ∀ (s : State), Inv s → s.phase = .idle → s.life = .ready → s.cbuf = [] → s.env.cmdIn = [] →
    (∀ (start count row : U16) (sp : Space),
      wellFormedRequest s.params start.toNat count.toNat sp row.toNat = true →
      EmitsUnderEverySchedule (.txSendLines start count (match sp with | .lb => 0x00 | .fb => 0x01) row)
        (writeFrame s.params (s.mem sp) start.toNat count.toNat row.toNat) s) ∧
    (∀ line : U16, 1 ≤ line.toNat → line.toNat ≤ s.params.height →
      EmitsUnderEverySchedule (.txWriteLb line) (writeFrame s.params s.lb line.toNat 1 1) s) ∧
    EmitsUnderEverySchedule .txWriteFb (writeFrame s.params s.fb 1 s.params.height 1) s ∧
    EmitsUnderEverySchedule .panelClear (clearFrame s.params) s

/-- R188, D27: in a run that is weakly fair, hardware resets allowed, the block is idle again and again, so every accepted
sequence ends; and in the timed form no toggle stays due for ever. The premise is the spec's own; the step of the model does
not enforce it (log 6). -/
def Obligations.FairRunsFinishTheirSequences : Prop :=
  ∀ r : Nat → State, IsRun r → Inv (r 0) → WeaklyFair r →
    (∀ n, ∃ m, n ≤ m ∧ busy (r m) = false) ∧ (∀ n, ∃ m, n ≤ m ∧ polDueNow (r m) = false)

/-- R188: a run that has ended stays ended, and what is observed of it (`LB`, `FB`, `STATUS`, `OUT` without polarity writes)
stays as it is, under every turn but hardware reset. What the projection leaves out is log 29. -/
def Obligations.EndedRunsStayEnded : Prop :=
  ∀ (s t : State), ended s = true → nextTurn s ≠ .reset → step s = .next t →
    ended t = true ∧ (∀ a, t.lb.read a = s.lb.read a) ∧ (∀ a, t.fb.read a = s.fb.read a) ∧
    statusReg t = statusReg s ∧ noPol t.out = noPol s.out
end

