-- ==== Sys2Proof/Laws/Decode.lean ====
section
/-! SUPPORT. Operands and their bytes (30_encoding.md R71). -/

namespace Sys2Proof

/-- The two bytes of a `u16` give it back. -/
@[simp] theorem u16_of_bytes (v : U16) : u16 (BitVec.ofNat 8 (v.toNat / 256)) (BitVec.ofNat 8 v.toNat) = v := by
  apply BitVec.eq_of_toNat_eq
  have := v.isLt
  simp only [u16, BitVec.toNat_ofNat]
  omega

/-- The four bytes of a `u32` give it back. -/
@[simp] theorem u32_of_bytes (v : BitVec 32) :
    u32 (BitVec.ofNat 8 (v.toNat / 16777216)) (BitVec.ofNat 8 (v.toNat / 65536)) (BitVec.ofNat 8 (v.toNat / 256))
      (BitVec.ofNat 8 v.toNat) = v := by
  apply BitVec.eq_of_toNat_eq
  have := v.isLt
  simp only [u32, BitVec.toNat_ofNat]
  omega

/-- A `u16` made of two bytes is sent as those two bytes. -/
@[simp] theorem u16Bytes_u16 (hi lo : Byte) : u16Bytes (u16 hi lo) = [hi, lo] := by
  have h1 := hi.isLt
  have h2 := lo.isLt
  simp only [u16Bytes, u16, BitVec.toNat_ofNat, List.cons.injEq, and_true]
  constructor <;> apply BitVec.eq_of_toNat_eq <;> simp only [BitVec.toNat_ofNat] <;> omega

/-- A `u32` made of four bytes is sent as those four bytes. -/
@[simp] theorem u32Bytes_u32 (a b c d : Byte) : u32Bytes (u32 a b c d) = [a, b, c, d] := by
  have h1 := a.isLt
  have h2 := b.isLt
  have h3 := c.isLt
  have h4 := d.isLt
  simp only [u32Bytes, u32, BitVec.toNat_ofNat, List.cons.injEq, and_true]
  refine ⟨?_, ?_, ?_, ?_⟩ <;> apply BitVec.eq_of_toNat_eq <;> simp only [BitVec.toNat_ofNat] <;> omega

/-- `len` of an encodable payload is its length. -/
theorem toNat_len_of_fits {payload : List Byte} (h : payloadFits payload = true) :
    (BitVec.ofNat 32 payload.length).toNat = payload.length := by
  have : payload.length < 4294967296 := by simpa [payloadFits] using h
  simp [Nat.mod_eq_of_lt this]

end Sys2Proof
end

