-- ==== Sys2Proof/Laws/Memory.lean ====
section
/-! SUPPORT. The laws of the buffer memories: what a read gives after each operation, and that every operation keeps
the canonical form and stays inside the buffer. -/

namespace Sys2Proof.Machine

/-! ### One byte written -/

theorem Memory.read_of_below : ∀ {m : Memory} {lo a : Nat}, Memory.wfFrom lo m = true → a < lo →
    m.read a = Memory.unlisted
  | [], _, _, _, _ => rfl
  | (k, v) :: m, lo, a, h, ha => by
    simp only [Memory.wfFrom, Bool.and_eq_true, decide_eq_true_eq] at h
    have hk : k ≠ a := by omega
    simpa [Memory.read, hk] using Memory.read_of_below h.2 (by omega)

theorem Memory.wfFrom_mono {m : Memory} {lo lo' : Nat} (h : Memory.wfFrom lo m = true) (hl : lo' ≤ lo) :
    Memory.wfFrom lo' m = true := by
  cases m with
  | nil => rfl
  | cons c m =>
    simp only [Memory.wfFrom, Bool.and_eq_true, decide_eq_true_eq] at h ⊢
    exact ⟨⟨by omega, h.1.2⟩, h.2⟩

theorem Memory.wfFrom_write : ∀ {m : Memory} {lo a : Nat} (v : Byte), Memory.wfFrom lo m = true → lo ≤ a →
    Memory.wfFrom lo (m.write a v) = true
  | [], lo, a, v, _, ha => by
    by_cases hv : v = Memory.unlisted <;> simp [Memory.write, Memory.wfFrom, hv, ha]
  | (k, w) :: m, lo, a, v, h, ha => by
    have h' := h
    simp only [Memory.wfFrom, Bool.and_eq_true, decide_eq_true_eq] at h'
    unfold Memory.write
    by_cases hak : a < k
    · rw [if_pos hak]
      by_cases hv : v = Memory.unlisted
      · rwa [if_pos hv]
      · rw [if_neg hv]
        simp only [Memory.wfFrom, Bool.and_eq_true, decide_eq_true_eq, bne_iff_ne]
        exact ⟨⟨ha, hv⟩, ⟨by omega, by simpa using h'.1.2⟩, h'.2⟩
    · rw [if_neg hak]
      by_cases hk : a = k
      · rw [if_pos hk]
        by_cases hv : v = Memory.unlisted
        · rw [if_pos hv]; exact Memory.wfFrom_mono h'.2 (by omega)
        · rw [if_neg hv]
          simp only [Memory.wfFrom, Bool.and_eq_true, decide_eq_true_eq, bne_iff_ne]
          exact ⟨⟨ha, hv⟩, by rw [hk]; exact h'.2⟩
      · rw [if_neg hk]
        simp only [Memory.wfFrom, Bool.and_eq_true, decide_eq_true_eq]
        exact ⟨⟨h'.1.1, h'.1.2⟩, Memory.wfFrom_write v h'.2 (by omega)⟩

/-- A write keeps the canonical form. -/
theorem Memory.wf_write {m : Memory} (a : Nat) (v : Byte) (h : m.wf = true) : (m.write a v).wf = true :=
  Memory.wfFrom_write v h (Nat.zero_le a)

theorem Memory.read_write_from : ∀ {m : Memory} {lo : Nat} (a b : Nat) (v : Byte), Memory.wfFrom lo m = true →
    (m.write a v).read b = if a = b then v else m.read b
  | [], _, a, b, v, _ => by
    by_cases hv : v = Memory.unlisted <;> by_cases hab : a = b <;> simp [Memory.write, Memory.read, hv, hab]
  | (k, w) :: m, lo, a, b, v, h => by
    simp only [Memory.wfFrom, Bool.and_eq_true, decide_eq_true_eq] at h
    unfold Memory.write
    by_cases hak : a < k
    · rw [if_pos hak]
      by_cases hv : v = Memory.unlisted
      · rw [if_pos hv]
        by_cases hab : a = b
        · subst hab
          have hka : k ≠ a := by omega
          simpa [Memory.read, hka, hv] using Memory.read_of_below h.2 (by omega)
        · simp [hab]
      · rw [if_neg hv]; simp [Memory.read]
    · rw [if_neg hak]
      by_cases hk : a = k
      · subst hk
        rw [if_pos rfl]
        by_cases hv : v = Memory.unlisted
        · rw [if_pos hv]
          by_cases hab : a = b
          · subst hab; simpa [hv] using Memory.read_of_below h.2 (by omega)
          · simp [Memory.read, hab]
        · rw [if_neg hv]
          by_cases hab : a = b <;> simp [Memory.read, hab]
      · rw [if_neg hk]
        by_cases hkb : k = b
        · have : a ≠ b := by omega
          simp [Memory.read, hkb, this]
        · simpa [Memory.read, hkb] using Memory.read_write_from a b v h.2

/-- A read after a write: the value written at its own offset, the old byte everywhere else. -/
theorem Memory.read_write {m : Memory} (a b : Nat) (v : Byte) (h : m.wf = true) :
    (m.write a v).read b = if a = b then v else m.read b :=
  Memory.read_write_from a b v h

theorem Memory.within_write : ∀ {m : Memory} {n a : Nat} (v : Byte), m.within n = true → a < n →
    (m.write a v).within n = true
  | [], n, a, v, _, ha => by
    by_cases hv : v = Memory.unlisted <;> simp [Memory.write, Memory.within, hv, ha]
  | (k, w) :: m, n, a, v, h, ha => by
    have h' : k < n ∧ Memory.within n m = true := by simpa [Memory.within] using h
    have ih := Memory.within_write v h'.2 ha
    simp only [Memory.within, List.all_eq_true] at *
    unfold Memory.write
    split
    · split
      · exact h
      · intro c hc
        rcases List.mem_cons.1 hc with rfl | hc
        · simpa using ha
        · exact h c hc
    · split
      · split
        · exact h'.2
        · intro c hc
          rcases List.mem_cons.1 hc with rfl | hc
          · simpa using ha
          · exact h'.2 c hc
      · intro c hc
        rcases List.mem_cons.1 hc with rfl | hc
        · simpa using h'.1
        · exact ih c hc

/-! ### Every byte written -/

theorem Memory.wf_fill {m : Memory} (n : Nat) (v : Byte) (h : m.wf = true) : (m.fill n v).wf = true := by
  induction n with
  | zero => exact h
  | succ n ih => exact Memory.wf_write n v ih

theorem Memory.read_fill {m : Memory} (n a : Nat) (v : Byte) (h : m.wf = true) :
    (m.fill n v).read a = if a < n then v else m.read a := by
  induction n with
  | zero => simp [Memory.fill]
  | succ n ih =>
    rw [Memory.fill, Memory.read_write n a v (Memory.wf_fill n v h), ih]
    by_cases h1 : n = a
    · simp [h1]
    · by_cases h2 : a < n
      · simp [h1, h2, Nat.lt_succ_of_lt h2]
      · have h3 : ¬ a < n + 1 := by omega
        simp [h1, h2, h3]

theorem Memory.within_fill {m : Memory} {n k : Nat} (v : Byte) (h : m.within n = true) (hk : k ≤ n) :
    (m.fill k v).within n = true := by
  induction k with
  | zero => exact h
  | succ k ih => exact Memory.within_write v (ih (by omega)) (by omega)

/-! ### A list of bytes written -/

theorem Memory.wf_load : ∀ (bs : List Byte) {m : Memory} (a : Nat), m.wf = true → (m.load a bs).wf = true
  | [], _, _, h => h
  | b :: bs, _, a, h => Memory.wf_load bs (a + 1) (Memory.wf_write a b h)

theorem Memory.read_load : ∀ (bs : List Byte) {m : Memory} (a x : Nat), m.wf = true →
    (m.load a bs).read x = if a ≤ x ∧ x < a + bs.length then bs.getD (x - a) 0 else m.read x
  | [], _, a, x, _ => by
    have h : ¬ (a ≤ x ∧ x < a) := by omega
    simp [Memory.load, h]
  | b :: bs, m, a, x, h => by
    rw [Memory.load, Memory.read_load bs (a + 1) x (Memory.wf_write a b h), Memory.read_write a x b h]
    by_cases hax : a = x
    · subst hax
      simp
    · by_cases h1 : a + 1 ≤ x ∧ x < a + 1 + bs.length
      · have h2 : a ≤ x ∧ x < a + (b :: bs).length := by simp only [List.length_cons]; omega
        have h3 : x - a = (x - (a + 1)) + 1 := by omega
        rw [if_pos h1, if_pos h2, h3, List.getD_cons_succ]
      · have h2 : ¬ (a ≤ x ∧ x < a + (b :: bs).length) := by simp only [List.length_cons]; omega
        rw [if_neg h1, if_neg h2, if_neg hax]

theorem Memory.within_load : ∀ (bs : List Byte) {m : Memory} {n : Nat} (a : Nat), m.within n = true →
    a + bs.length ≤ n → (m.load a bs).within n = true
  | [], _, _, _, h, _ => h
  | b :: bs, _, _, a, h, hn => by
    simp only [List.length_cons] at hn
    exact Memory.within_load bs (a + 1) (Memory.within_write b h (by omega)) (by omega)

/-! ### Canonical memories are equal when they read equal -/

theorem Memory.ext_from : ∀ {m m' : Memory} {lo : Nat}, Memory.wfFrom lo m = true → Memory.wfFrom lo m' = true →
    (∀ a, m.read a = m'.read a) → m = m'
  | [], [], _, _, _, _ => rfl
  | [], (k, v) :: m', lo, _, h', e => by
    simp only [Memory.wfFrom, Bool.and_eq_true, decide_eq_true_eq, bne_iff_ne] at h'
    exact absurd (by simpa [Memory.read] using (e k).symm) h'.1.2
  | (k, v) :: m, [], lo, h, _, e => by
    simp only [Memory.wfFrom, Bool.and_eq_true, decide_eq_true_eq, bne_iff_ne] at h
    exact absurd (by simpa [Memory.read] using e k) h.1.2
  | (k, v) :: m, (k', v') :: m', lo, h, h', e => by
    simp only [Memory.wfFrom, Bool.and_eq_true, decide_eq_true_eq, bne_iff_ne] at h h'
    have hk : k = k' := by
      rcases Nat.lt_trichotomy k k' with hlt | heq | hlt
      · have h1 := e k
        have h2 : Memory.read m' k = Memory.unlisted := Memory.read_of_below h'.2 (by omega)
        have h3 : k' ≠ k := by omega
        exact absurd (by simpa [Memory.read, h3, h2] using h1) h.1.2
      · exact heq
      · have h1 := e k'
        have h2 : Memory.read m k' = Memory.unlisted := Memory.read_of_below h.2 (by omega)
        have h3 : k ≠ k' := by omega
        exact absurd (by simpa [Memory.read, h3, h2] using h1.symm) h'.1.2
    subst hk
    have hv : v = v' := by simpa [Memory.read] using e k
    subst hv
    congr 1
    refine Memory.ext_from h.2 h'.2 fun a => ?_
    by_cases ha : k = a
    · subst ha
      rw [Memory.read_of_below h.2 (by omega), Memory.read_of_below h'.2 (by omega)]
    · simpa [Memory.read, ha] using e a

/-- Equal memories are equal data. -/
theorem Memory.ext_read {m m' : Memory} (h : m.wf = true) (h' : m'.wf = true) (e : ∀ a, m.read a = m'.read a) :
    m = m' := Memory.ext_from h h' e

end Sys2Proof.Machine
end

