-- ==== Sys2Proof/Laws/State.lean ====
section
/-! SUPPORT. What every named update of the state does to every field: one lemma per field per update. -/

namespace Sys2Proof.Machine

/-! `goto` -/

@[simp] theorem goto_params (p : Phase) (s : State) : (goto p s).params = s.params := rfl
@[simp] theorem goto_lb (p : Phase) (s : State) : (goto p s).lb = s.lb := rfl
@[simp] theorem goto_fb (p : Phase) (s : State) : (goto p s).fb = s.fb := rfl
@[simp] theorem goto_pins (p : Phase) (s : State) : (goto p s).pins = s.pins := rfl
@[simp] theorem goto_polState (p : Phase) (s : State) : (goto p s).polState = s.polState := rfl
@[simp] theorem goto_polRun (p : Phase) (s : State) : (goto p s).polRun = s.polRun := rfl
@[simp] theorem goto_polCnt (p : Phase) (s : State) : (goto p s).polCnt = s.polCnt := rfl
@[simp] theorem goto_polPend (p : Phase) (s : State) : (goto p s).polPend = s.polPend := rfl
@[simp] theorem goto_kind (p : Phase) (s : State) : (goto p s).kind = s.kind := rfl
@[simp] theorem goto_addr (p : Phase) (s : State) : (goto p s).addr = s.addr := rfl
@[simp] theorem goto_linesLeft (p : Phase) (s : State) : (goto p s).linesLeft = s.linesLeft := rfl
@[simp] theorem goto_byteIdx (p : Phase) (s : State) : (goto p s).byteIdx = s.byteIdx := rfl
@[simp] theorem goto_srcSpace (p : Phase) (s : State) : (goto p s).srcSpace = s.srcSpace := rfl
@[simp] theorem goto_srcPtr (p : Phase) (s : State) : (goto p s).srcPtr = s.srcPtr := rfl
@[simp] theorem goto_phase (p : Phase) (s : State) : (goto p s).phase = p := rfl
@[simp] theorem goto_flags (p : Phase) (s : State) : (goto p s).flags = s.flags := rfl
@[simp] theorem goto_cbuf (p : Phase) (s : State) : (goto p s).cbuf = s.cbuf := rfl
@[simp] theorem goto_life (p : Phase) (s : State) : (goto p s).life = s.life := rfl
@[simp] theorem goto_out (p : Phase) (s : State) : (goto p s).out = s.out := rfl
@[simp] theorem goto_waitLeft (p : Phase) (s : State) : (goto p s).waitLeft = s.waitLeft := rfl
@[simp] theorem goto_env (p : Phase) (s : State) : (goto p s).env = s.env := rfl

/-! `setDrop` -/

@[simp] theorem setDrop_params (v : Bool) (s : State) : (setDrop v s).params = s.params := rfl
@[simp] theorem setDrop_lb (v : Bool) (s : State) : (setDrop v s).lb = s.lb := rfl
@[simp] theorem setDrop_fb (v : Bool) (s : State) : (setDrop v s).fb = s.fb := rfl
@[simp] theorem setDrop_pins (v : Bool) (s : State) : (setDrop v s).pins = s.pins := rfl
@[simp] theorem setDrop_polState (v : Bool) (s : State) : (setDrop v s).polState = s.polState := rfl
@[simp] theorem setDrop_polRun (v : Bool) (s : State) : (setDrop v s).polRun = s.polRun := rfl
@[simp] theorem setDrop_polCnt (v : Bool) (s : State) : (setDrop v s).polCnt = s.polCnt := rfl
@[simp] theorem setDrop_polPend (v : Bool) (s : State) : (setDrop v s).polPend = s.polPend := rfl
@[simp] theorem setDrop_kind (v : Bool) (s : State) : (setDrop v s).kind = s.kind := rfl
@[simp] theorem setDrop_addr (v : Bool) (s : State) : (setDrop v s).addr = s.addr := rfl
@[simp] theorem setDrop_linesLeft (v : Bool) (s : State) : (setDrop v s).linesLeft = s.linesLeft := rfl
@[simp] theorem setDrop_byteIdx (v : Bool) (s : State) : (setDrop v s).byteIdx = s.byteIdx := rfl
@[simp] theorem setDrop_srcSpace (v : Bool) (s : State) : (setDrop v s).srcSpace = s.srcSpace := rfl
@[simp] theorem setDrop_srcPtr (v : Bool) (s : State) : (setDrop v s).srcPtr = s.srcPtr := rfl
@[simp] theorem setDrop_phase (v : Bool) (s : State) : (setDrop v s).phase = s.phase := rfl
@[simp] theorem setDrop_flags (v : Bool) (s : State) : (setDrop v s).flags = { s.flags with drop := v } := rfl
@[simp] theorem setDrop_cbuf (v : Bool) (s : State) : (setDrop v s).cbuf = s.cbuf := rfl
@[simp] theorem setDrop_life (v : Bool) (s : State) : (setDrop v s).life = s.life := rfl
@[simp] theorem setDrop_out (v : Bool) (s : State) : (setDrop v s).out = s.out := rfl
@[simp] theorem setDrop_waitLeft (v : Bool) (s : State) : (setDrop v s).waitLeft = s.waitLeft := rfl
@[simp] theorem setDrop_env (v : Bool) (s : State) : (setDrop v s).env = s.env := rfl

/-! `setIll` -/

@[simp] theorem setIll_params (s : State) : (setIll s).params = s.params := rfl
@[simp] theorem setIll_lb (s : State) : (setIll s).lb = s.lb := rfl
@[simp] theorem setIll_fb (s : State) : (setIll s).fb = s.fb := rfl
@[simp] theorem setIll_pins (s : State) : (setIll s).pins = s.pins := rfl
@[simp] theorem setIll_polState (s : State) : (setIll s).polState = s.polState := rfl
@[simp] theorem setIll_polRun (s : State) : (setIll s).polRun = s.polRun := rfl
@[simp] theorem setIll_polCnt (s : State) : (setIll s).polCnt = s.polCnt := rfl
@[simp] theorem setIll_polPend (s : State) : (setIll s).polPend = s.polPend := rfl
@[simp] theorem setIll_kind (s : State) : (setIll s).kind = s.kind := rfl
@[simp] theorem setIll_addr (s : State) : (setIll s).addr = s.addr := rfl
@[simp] theorem setIll_linesLeft (s : State) : (setIll s).linesLeft = s.linesLeft := rfl
@[simp] theorem setIll_byteIdx (s : State) : (setIll s).byteIdx = s.byteIdx := rfl
@[simp] theorem setIll_srcSpace (s : State) : (setIll s).srcSpace = s.srcSpace := rfl
@[simp] theorem setIll_srcPtr (s : State) : (setIll s).srcPtr = s.srcPtr := rfl
@[simp] theorem setIll_phase (s : State) : (setIll s).phase = s.phase := rfl
@[simp] theorem setIll_flags (s : State) : (setIll s).flags = { s.flags with ill := true } := rfl
@[simp] theorem setIll_cbuf (s : State) : (setIll s).cbuf = s.cbuf := rfl
@[simp] theorem setIll_life (s : State) : (setIll s).life = s.life := rfl
@[simp] theorem setIll_out (s : State) : (setIll s).out = s.out := rfl
@[simp] theorem setIll_waitLeft (s : State) : (setIll s).waitLeft = s.waitLeft := rfl
@[simp] theorem setIll_env (s : State) : (setIll s).env = s.env := rfl

/-! `setImgErr` -/

@[simp] theorem setImgErr_params (v : Bool) (s : State) : (setImgErr v s).params = s.params := rfl
@[simp] theorem setImgErr_lb (v : Bool) (s : State) : (setImgErr v s).lb = s.lb := rfl
@[simp] theorem setImgErr_fb (v : Bool) (s : State) : (setImgErr v s).fb = s.fb := rfl
@[simp] theorem setImgErr_pins (v : Bool) (s : State) : (setImgErr v s).pins = s.pins := rfl
@[simp] theorem setImgErr_polState (v : Bool) (s : State) : (setImgErr v s).polState = s.polState := rfl
@[simp] theorem setImgErr_polRun (v : Bool) (s : State) : (setImgErr v s).polRun = s.polRun := rfl
@[simp] theorem setImgErr_polCnt (v : Bool) (s : State) : (setImgErr v s).polCnt = s.polCnt := rfl
@[simp] theorem setImgErr_polPend (v : Bool) (s : State) : (setImgErr v s).polPend = s.polPend := rfl
@[simp] theorem setImgErr_kind (v : Bool) (s : State) : (setImgErr v s).kind = s.kind := rfl
@[simp] theorem setImgErr_addr (v : Bool) (s : State) : (setImgErr v s).addr = s.addr := rfl
@[simp] theorem setImgErr_linesLeft (v : Bool) (s : State) : (setImgErr v s).linesLeft = s.linesLeft := rfl
@[simp] theorem setImgErr_byteIdx (v : Bool) (s : State) : (setImgErr v s).byteIdx = s.byteIdx := rfl
@[simp] theorem setImgErr_srcSpace (v : Bool) (s : State) : (setImgErr v s).srcSpace = s.srcSpace := rfl
@[simp] theorem setImgErr_srcPtr (v : Bool) (s : State) : (setImgErr v s).srcPtr = s.srcPtr := rfl
@[simp] theorem setImgErr_phase (v : Bool) (s : State) : (setImgErr v s).phase = s.phase := rfl
@[simp] theorem setImgErr_flags (v : Bool) (s : State) : (setImgErr v s).flags = { s.flags with imgErr := v } := rfl
@[simp] theorem setImgErr_cbuf (v : Bool) (s : State) : (setImgErr v s).cbuf = s.cbuf := rfl
@[simp] theorem setImgErr_life (v : Bool) (s : State) : (setImgErr v s).life = s.life := rfl
@[simp] theorem setImgErr_out (v : Bool) (s : State) : (setImgErr v s).out = s.out := rfl
@[simp] theorem setImgErr_waitLeft (v : Bool) (s : State) : (setImgErr v s).waitLeft = s.waitLeft := rfl
@[simp] theorem setImgErr_env (v : Bool) (s : State) : (setImgErr v s).env = s.env := rfl

/-! `clearTxFail` -/

@[simp] theorem clearTxFail_params (s : State) : (clearTxFail s).params = s.params := rfl
@[simp] theorem clearTxFail_lb (s : State) : (clearTxFail s).lb = s.lb := rfl
@[simp] theorem clearTxFail_fb (s : State) : (clearTxFail s).fb = s.fb := rfl
@[simp] theorem clearTxFail_pins (s : State) : (clearTxFail s).pins = s.pins := rfl
@[simp] theorem clearTxFail_polState (s : State) : (clearTxFail s).polState = s.polState := rfl
@[simp] theorem clearTxFail_polRun (s : State) : (clearTxFail s).polRun = s.polRun := rfl
@[simp] theorem clearTxFail_polCnt (s : State) : (clearTxFail s).polCnt = s.polCnt := rfl
@[simp] theorem clearTxFail_polPend (s : State) : (clearTxFail s).polPend = s.polPend := rfl
@[simp] theorem clearTxFail_kind (s : State) : (clearTxFail s).kind = s.kind := rfl
@[simp] theorem clearTxFail_addr (s : State) : (clearTxFail s).addr = s.addr := rfl
@[simp] theorem clearTxFail_linesLeft (s : State) : (clearTxFail s).linesLeft = s.linesLeft := rfl
@[simp] theorem clearTxFail_byteIdx (s : State) : (clearTxFail s).byteIdx = s.byteIdx := rfl
@[simp] theorem clearTxFail_srcSpace (s : State) : (clearTxFail s).srcSpace = s.srcSpace := rfl
@[simp] theorem clearTxFail_srcPtr (s : State) : (clearTxFail s).srcPtr = s.srcPtr := rfl
@[simp] theorem clearTxFail_phase (s : State) : (clearTxFail s).phase = s.phase := rfl
@[simp] theorem clearTxFail_flags (s : State) : (clearTxFail s).flags = { s.flags with txFail := false } := rfl
@[simp] theorem clearTxFail_cbuf (s : State) : (clearTxFail s).cbuf = s.cbuf := rfl
@[simp] theorem clearTxFail_life (s : State) : (clearTxFail s).life = s.life := rfl
@[simp] theorem clearTxFail_out (s : State) : (clearTxFail s).out = s.out := rfl
@[simp] theorem clearTxFail_waitLeft (s : State) : (clearTxFail s).waitLeft = s.waitLeft := rfl
@[simp] theorem clearTxFail_env (s : State) : (clearTxFail s).env = s.env := rfl

/-! `noteTxAnswer` -/

@[simp] theorem noteTxAnswer_params (ok : Bool) (s : State) : (noteTxAnswer ok s).params = s.params := rfl
@[simp] theorem noteTxAnswer_lb (ok : Bool) (s : State) : (noteTxAnswer ok s).lb = s.lb := rfl
@[simp] theorem noteTxAnswer_fb (ok : Bool) (s : State) : (noteTxAnswer ok s).fb = s.fb := rfl
@[simp] theorem noteTxAnswer_pins (ok : Bool) (s : State) : (noteTxAnswer ok s).pins = s.pins := rfl
@[simp] theorem noteTxAnswer_polState (ok : Bool) (s : State) : (noteTxAnswer ok s).polState = s.polState := rfl
@[simp] theorem noteTxAnswer_polRun (ok : Bool) (s : State) : (noteTxAnswer ok s).polRun = s.polRun := rfl
@[simp] theorem noteTxAnswer_polCnt (ok : Bool) (s : State) : (noteTxAnswer ok s).polCnt = s.polCnt := rfl
@[simp] theorem noteTxAnswer_polPend (ok : Bool) (s : State) : (noteTxAnswer ok s).polPend = s.polPend := rfl
@[simp] theorem noteTxAnswer_kind (ok : Bool) (s : State) : (noteTxAnswer ok s).kind = s.kind := rfl
@[simp] theorem noteTxAnswer_addr (ok : Bool) (s : State) : (noteTxAnswer ok s).addr = s.addr := rfl
@[simp] theorem noteTxAnswer_linesLeft (ok : Bool) (s : State) : (noteTxAnswer ok s).linesLeft = s.linesLeft := rfl
@[simp] theorem noteTxAnswer_byteIdx (ok : Bool) (s : State) : (noteTxAnswer ok s).byteIdx = s.byteIdx := rfl
@[simp] theorem noteTxAnswer_srcSpace (ok : Bool) (s : State) : (noteTxAnswer ok s).srcSpace = s.srcSpace := rfl
@[simp] theorem noteTxAnswer_srcPtr (ok : Bool) (s : State) : (noteTxAnswer ok s).srcPtr = s.srcPtr := rfl
@[simp] theorem noteTxAnswer_phase (ok : Bool) (s : State) : (noteTxAnswer ok s).phase = s.phase := rfl
@[simp] theorem noteTxAnswer_flags (ok : Bool) (s : State) : (noteTxAnswer ok s).flags = { s.flags with txFail := s.flags.txFail || !ok } := rfl
@[simp] theorem noteTxAnswer_cbuf (ok : Bool) (s : State) : (noteTxAnswer ok s).cbuf = s.cbuf := rfl
@[simp] theorem noteTxAnswer_life (ok : Bool) (s : State) : (noteTxAnswer ok s).life = s.life := rfl
@[simp] theorem noteTxAnswer_out (ok : Bool) (s : State) : (noteTxAnswer ok s).out = s.out := rfl
@[simp] theorem noteTxAnswer_waitLeft (ok : Bool) (s : State) : (noteTxAnswer ok s).waitLeft = s.waitLeft := rfl
@[simp] theorem noteTxAnswer_env (ok : Bool) (s : State) : (noteTxAnswer ok s).env = s.env := rfl

/-! `setInitFail` -/

@[simp] theorem setInitFail_params (s : State) : (setInitFail s).params = s.params := rfl
@[simp] theorem setInitFail_lb (s : State) : (setInitFail s).lb = s.lb := rfl
@[simp] theorem setInitFail_fb (s : State) : (setInitFail s).fb = s.fb := rfl
@[simp] theorem setInitFail_pins (s : State) : (setInitFail s).pins = s.pins := rfl
@[simp] theorem setInitFail_polState (s : State) : (setInitFail s).polState = s.polState := rfl
@[simp] theorem setInitFail_polRun (s : State) : (setInitFail s).polRun = s.polRun := rfl
@[simp] theorem setInitFail_polCnt (s : State) : (setInitFail s).polCnt = s.polCnt := rfl
@[simp] theorem setInitFail_polPend (s : State) : (setInitFail s).polPend = s.polPend := rfl
@[simp] theorem setInitFail_kind (s : State) : (setInitFail s).kind = s.kind := rfl
@[simp] theorem setInitFail_addr (s : State) : (setInitFail s).addr = s.addr := rfl
@[simp] theorem setInitFail_linesLeft (s : State) : (setInitFail s).linesLeft = s.linesLeft := rfl
@[simp] theorem setInitFail_byteIdx (s : State) : (setInitFail s).byteIdx = s.byteIdx := rfl
@[simp] theorem setInitFail_srcSpace (s : State) : (setInitFail s).srcSpace = s.srcSpace := rfl
@[simp] theorem setInitFail_srcPtr (s : State) : (setInitFail s).srcPtr = s.srcPtr := rfl
@[simp] theorem setInitFail_phase (s : State) : (setInitFail s).phase = s.phase := rfl
@[simp] theorem setInitFail_flags (s : State) : (setInitFail s).flags = { s.flags with initFail := true } := rfl
@[simp] theorem setInitFail_cbuf (s : State) : (setInitFail s).cbuf = s.cbuf := rfl
@[simp] theorem setInitFail_life (s : State) : (setInitFail s).life = s.life := rfl
@[simp] theorem setInitFail_out (s : State) : (setInitFail s).out = s.out := rfl
@[simp] theorem setInitFail_waitLeft (s : State) : (setInitFail s).waitLeft = s.waitLeft := rfl
@[simp] theorem setInitFail_env (s : State) : (setInitFail s).env = s.env := rfl

/-! `deferDue` -/

@[simp] theorem deferDue_params (s : State) : (deferDue s).params = s.params := rfl
@[simp] theorem deferDue_lb (s : State) : (deferDue s).lb = s.lb := rfl
@[simp] theorem deferDue_fb (s : State) : (deferDue s).fb = s.fb := rfl
@[simp] theorem deferDue_pins (s : State) : (deferDue s).pins = s.pins := rfl
@[simp] theorem deferDue_polState (s : State) : (deferDue s).polState = s.polState := rfl
@[simp] theorem deferDue_polRun (s : State) : (deferDue s).polRun = s.polRun := rfl
@[simp] theorem deferDue_polCnt (s : State) : (deferDue s).polCnt = s.polCnt := rfl
@[simp] theorem deferDue_polPend (s : State) : (deferDue s).polPend = (s.polPend || (halfPeriodOver s && s.params.polArb == .locked)) := rfl
@[simp] theorem deferDue_kind (s : State) : (deferDue s).kind = s.kind := rfl
@[simp] theorem deferDue_addr (s : State) : (deferDue s).addr = s.addr := rfl
@[simp] theorem deferDue_linesLeft (s : State) : (deferDue s).linesLeft = s.linesLeft := rfl
@[simp] theorem deferDue_byteIdx (s : State) : (deferDue s).byteIdx = s.byteIdx := rfl
@[simp] theorem deferDue_srcSpace (s : State) : (deferDue s).srcSpace = s.srcSpace := rfl
@[simp] theorem deferDue_srcPtr (s : State) : (deferDue s).srcPtr = s.srcPtr := rfl
@[simp] theorem deferDue_phase (s : State) : (deferDue s).phase = s.phase := rfl
@[simp] theorem deferDue_flags (s : State) : (deferDue s).flags = s.flags := rfl
@[simp] theorem deferDue_cbuf (s : State) : (deferDue s).cbuf = s.cbuf := rfl
@[simp] theorem deferDue_life (s : State) : (deferDue s).life = s.life := rfl
@[simp] theorem deferDue_out (s : State) : (deferDue s).out = s.out := rfl
@[simp] theorem deferDue_waitLeft (s : State) : (deferDue s).waitLeft = s.waitLeft := rfl
@[simp] theorem deferDue_env (s : State) : (deferDue s).env = s.env := rfl

/-! `afterTurn` -/

@[simp] theorem afterTurn_params (s : State) : (afterTurn s).params = s.params := rfl
@[simp] theorem afterTurn_lb (s : State) : (afterTurn s).lb = s.lb := rfl
@[simp] theorem afterTurn_fb (s : State) : (afterTurn s).fb = s.fb := rfl
@[simp] theorem afterTurn_pins (s : State) : (afterTurn s).pins = s.pins := rfl
@[simp] theorem afterTurn_polState (s : State) : (afterTurn s).polState = s.polState := rfl
@[simp] theorem afterTurn_polRun (s : State) : (afterTurn s).polRun = s.polRun := rfl
@[simp] theorem afterTurn_polCnt (s : State) : (afterTurn s).polCnt = s.polCnt := rfl
@[simp] theorem afterTurn_polPend (s : State) : (afterTurn s).polPend = s.polPend := rfl
@[simp] theorem afterTurn_kind (s : State) : (afterTurn s).kind = s.kind := rfl
@[simp] theorem afterTurn_addr (s : State) : (afterTurn s).addr = s.addr := rfl
@[simp] theorem afterTurn_linesLeft (s : State) : (afterTurn s).linesLeft = s.linesLeft := rfl
@[simp] theorem afterTurn_byteIdx (s : State) : (afterTurn s).byteIdx = s.byteIdx := rfl
@[simp] theorem afterTurn_srcSpace (s : State) : (afterTurn s).srcSpace = s.srcSpace := rfl
@[simp] theorem afterTurn_srcPtr (s : State) : (afterTurn s).srcPtr = s.srcPtr := rfl
@[simp] theorem afterTurn_phase (s : State) : (afterTurn s).phase = s.phase := rfl
@[simp] theorem afterTurn_flags (s : State) : (afterTurn s).flags = s.flags := rfl
@[simp] theorem afterTurn_cbuf (s : State) : (afterTurn s).cbuf = s.cbuf := rfl
@[simp] theorem afterTurn_life (s : State) : (afterTurn s).life = s.life := rfl
@[simp] theorem afterTurn_out (s : State) : (afterTurn s).out = s.out := rfl
@[simp] theorem afterTurn_waitLeft (s : State) : (afterTurn s).waitLeft = s.waitLeft := rfl
@[simp] theorem afterTurn_env (s : State) : (afterTurn s).env = { s.env with turns := s.env.turns.tail, draws := s.env.draws + 1 } := rfl

/-! `hostRead` -/

@[simp] theorem hostRead_params (n : Nat) (s : State) : (hostRead n s).params = s.params := rfl
@[simp] theorem hostRead_lb (n : Nat) (s : State) : (hostRead n s).lb = s.lb := rfl
@[simp] theorem hostRead_fb (n : Nat) (s : State) : (hostRead n s).fb = s.fb := rfl
@[simp] theorem hostRead_pins (n : Nat) (s : State) : (hostRead n s).pins = s.pins := rfl
@[simp] theorem hostRead_polState (n : Nat) (s : State) : (hostRead n s).polState = s.polState := rfl
@[simp] theorem hostRead_polRun (n : Nat) (s : State) : (hostRead n s).polRun = s.polRun := rfl
@[simp] theorem hostRead_polCnt (n : Nat) (s : State) : (hostRead n s).polCnt = s.polCnt := rfl
@[simp] theorem hostRead_polPend (n : Nat) (s : State) : (hostRead n s).polPend = s.polPend := rfl
@[simp] theorem hostRead_kind (n : Nat) (s : State) : (hostRead n s).kind = s.kind := rfl
@[simp] theorem hostRead_addr (n : Nat) (s : State) : (hostRead n s).addr = s.addr := rfl
@[simp] theorem hostRead_linesLeft (n : Nat) (s : State) : (hostRead n s).linesLeft = s.linesLeft := rfl
@[simp] theorem hostRead_byteIdx (n : Nat) (s : State) : (hostRead n s).byteIdx = s.byteIdx := rfl
@[simp] theorem hostRead_srcSpace (n : Nat) (s : State) : (hostRead n s).srcSpace = s.srcSpace := rfl
@[simp] theorem hostRead_srcPtr (n : Nat) (s : State) : (hostRead n s).srcPtr = s.srcPtr := rfl
@[simp] theorem hostRead_phase (n : Nat) (s : State) : (hostRead n s).phase = s.phase := rfl
@[simp] theorem hostRead_flags (n : Nat) (s : State) : (hostRead n s).flags = s.flags := rfl
@[simp] theorem hostRead_cbuf (n : Nat) (s : State) : (hostRead n s).cbuf = s.cbuf := rfl
@[simp] theorem hostRead_life (n : Nat) (s : State) : (hostRead n s).life = s.life := rfl
@[simp] theorem hostRead_out (n : Nat) (s : State) : (hostRead n s).out = s.out := rfl
@[simp] theorem hostRead_waitLeft (n : Nat) (s : State) : (hostRead n s).waitLeft = s.waitLeft := rfl
@[simp] theorem hostRead_env (n : Nat) (s : State) : (hostRead n s).env = { s.env with reads := s.env.reads ++ [⟨n, readReg n s⟩], draws := s.env.draws + 1 } := rfl

/-! `emit` -/

@[simp] theorem emit_params (e : Event) (s : State) : (emit e s).params = s.params := by cases e <;> rfl
@[simp] theorem emit_lb (e : Event) (s : State) : (emit e s).lb = s.lb := by cases e <;> rfl
@[simp] theorem emit_fb (e : Event) (s : State) : (emit e s).fb = s.fb := by cases e <;> rfl
@[simp] theorem emit_polState (e : Event) (s : State) : (emit e s).polState = s.polState := by cases e <;> rfl
@[simp] theorem emit_polRun (e : Event) (s : State) : (emit e s).polRun = s.polRun := by cases e <;> rfl
@[simp] theorem emit_polCnt (e : Event) (s : State) : (emit e s).polCnt = s.polCnt := by cases e <;> rfl
@[simp] theorem emit_polPend (e : Event) (s : State) : (emit e s).polPend = s.polPend := by cases e <;> rfl
@[simp] theorem emit_kind (e : Event) (s : State) : (emit e s).kind = s.kind := by cases e <;> rfl
@[simp] theorem emit_addr (e : Event) (s : State) : (emit e s).addr = s.addr := by cases e <;> rfl
@[simp] theorem emit_linesLeft (e : Event) (s : State) : (emit e s).linesLeft = s.linesLeft := by cases e <;> rfl
@[simp] theorem emit_byteIdx (e : Event) (s : State) : (emit e s).byteIdx = s.byteIdx := by cases e <;> rfl
@[simp] theorem emit_srcSpace (e : Event) (s : State) : (emit e s).srcSpace = s.srcSpace := by cases e <;> rfl
@[simp] theorem emit_srcPtr (e : Event) (s : State) : (emit e s).srcPtr = s.srcPtr := by cases e <;> rfl
@[simp] theorem emit_phase (e : Event) (s : State) : (emit e s).phase = s.phase := by cases e <;> rfl
@[simp] theorem emit_flags (e : Event) (s : State) : (emit e s).flags = s.flags := by cases e <;> rfl
@[simp] theorem emit_cbuf (e : Event) (s : State) : (emit e s).cbuf = s.cbuf := by cases e <;> rfl
@[simp] theorem emit_life (e : Event) (s : State) : (emit e s).life = s.life := by cases e <;> rfl
@[simp] theorem emit_out (e : Event) (s : State) : (emit e s).out = s.out ++ [e] := by cases e <;> rfl
@[simp] theorem emit_env (e : Event) (s : State) : (emit e s).env = s.env := by cases e <;> rfl

/-! `tx` -/

@[simp] theorem tx_params (b : Byte) (s : State) : (tx b s).params = s.params := rfl
@[simp] theorem tx_lb (b : Byte) (s : State) : (tx b s).lb = s.lb := rfl
@[simp] theorem tx_fb (b : Byte) (s : State) : (tx b s).fb = s.fb := rfl
@[simp] theorem tx_pins (b : Byte) (s : State) : (tx b s).pins = s.pins := rfl
@[simp] theorem tx_polState (b : Byte) (s : State) : (tx b s).polState = s.polState := rfl
@[simp] theorem tx_polRun (b : Byte) (s : State) : (tx b s).polRun = s.polRun := rfl
@[simp] theorem tx_polCnt (b : Byte) (s : State) : (tx b s).polCnt = s.polCnt := rfl
@[simp] theorem tx_polPend (b : Byte) (s : State) : (tx b s).polPend = s.polPend := rfl
@[simp] theorem tx_kind (b : Byte) (s : State) : (tx b s).kind = s.kind := rfl
@[simp] theorem tx_addr (b : Byte) (s : State) : (tx b s).addr = s.addr := rfl
@[simp] theorem tx_linesLeft (b : Byte) (s : State) : (tx b s).linesLeft = s.linesLeft := rfl
@[simp] theorem tx_byteIdx (b : Byte) (s : State) : (tx b s).byteIdx = s.byteIdx := rfl
@[simp] theorem tx_srcSpace (b : Byte) (s : State) : (tx b s).srcSpace = s.srcSpace := rfl
@[simp] theorem tx_srcPtr (b : Byte) (s : State) : (tx b s).srcPtr = s.srcPtr := rfl
@[simp] theorem tx_phase (b : Byte) (s : State) : (tx b s).phase = s.phase := rfl
@[simp] theorem tx_flags (b : Byte) (s : State) : (tx b s).flags = { s.flags with txFail := s.flags.txFail || !s.env.txAnswer } := rfl
@[simp] theorem tx_cbuf (b : Byte) (s : State) : (tx b s).cbuf = s.cbuf := rfl
@[simp] theorem tx_life (b : Byte) (s : State) : (tx b s).life = s.life := rfl
@[simp] theorem tx_out (b : Byte) (s : State) : (tx b s).out = s.out ++ [.tx b] := rfl
@[simp] theorem tx_waitLeft (b : Byte) (s : State) : (tx b s).waitLeft = s.waitLeft := rfl
@[simp] theorem tx_env (b : Byte) (s : State) : (tx b s).env = s.env.afterTx := rfl

/-! `withMem` -/

@[simp] theorem withMem_params (sp : Space) (m : Memory) (s : State) : (s.withMem sp m).params = s.params := by cases sp <;> rfl
@[simp] theorem withMem_pins (sp : Space) (m : Memory) (s : State) : (s.withMem sp m).pins = s.pins := by cases sp <;> rfl
@[simp] theorem withMem_polState (sp : Space) (m : Memory) (s : State) : (s.withMem sp m).polState = s.polState := by cases sp <;> rfl
@[simp] theorem withMem_polRun (sp : Space) (m : Memory) (s : State) : (s.withMem sp m).polRun = s.polRun := by cases sp <;> rfl
@[simp] theorem withMem_polCnt (sp : Space) (m : Memory) (s : State) : (s.withMem sp m).polCnt = s.polCnt := by cases sp <;> rfl
@[simp] theorem withMem_polPend (sp : Space) (m : Memory) (s : State) : (s.withMem sp m).polPend = s.polPend := by cases sp <;> rfl
@[simp] theorem withMem_kind (sp : Space) (m : Memory) (s : State) : (s.withMem sp m).kind = s.kind := by cases sp <;> rfl
@[simp] theorem withMem_addr (sp : Space) (m : Memory) (s : State) : (s.withMem sp m).addr = s.addr := by cases sp <;> rfl
@[simp] theorem withMem_linesLeft (sp : Space) (m : Memory) (s : State) : (s.withMem sp m).linesLeft = s.linesLeft := by cases sp <;> rfl
@[simp] theorem withMem_byteIdx (sp : Space) (m : Memory) (s : State) : (s.withMem sp m).byteIdx = s.byteIdx := by cases sp <;> rfl
@[simp] theorem withMem_srcSpace (sp : Space) (m : Memory) (s : State) : (s.withMem sp m).srcSpace = s.srcSpace := by cases sp <;> rfl
@[simp] theorem withMem_srcPtr (sp : Space) (m : Memory) (s : State) : (s.withMem sp m).srcPtr = s.srcPtr := by cases sp <;> rfl
@[simp] theorem withMem_phase (sp : Space) (m : Memory) (s : State) : (s.withMem sp m).phase = s.phase := by cases sp <;> rfl
@[simp] theorem withMem_flags (sp : Space) (m : Memory) (s : State) : (s.withMem sp m).flags = s.flags := by cases sp <;> rfl
@[simp] theorem withMem_cbuf (sp : Space) (m : Memory) (s : State) : (s.withMem sp m).cbuf = s.cbuf := by cases sp <;> rfl
@[simp] theorem withMem_life (sp : Space) (m : Memory) (s : State) : (s.withMem sp m).life = s.life := by cases sp <;> rfl
@[simp] theorem withMem_out (sp : Space) (m : Memory) (s : State) : (s.withMem sp m).out = s.out := by cases sp <;> rfl
@[simp] theorem withMem_waitLeft (sp : Space) (m : Memory) (s : State) : (s.withMem sp m).waitLeft = s.waitLeft := by cases sp <;> rfl
@[simp] theorem withMem_env (sp : Space) (m : Memory) (s : State) : (s.withMem sp m).env = s.env := by cases sp <;> rfl

/-! `hardReset` -/

@[simp] theorem hardReset_params (s : State) : (hardReset s).params = s.params := rfl
@[simp] theorem hardReset_env (s : State) : (hardReset s).env = s.env := rfl

/-! What `emit` does to the pins and to the wait, by event. -/

@[simp] theorem emit_tx_pins (b : Byte) (s : State) : (emit (.tx b) s).pins = s.pins := rfl
@[simp] theorem emit_delay_pins (t : Nat) (s : State) : (emit (.delay t) s).pins = s.pins := rfl
@[simp] theorem emit_busCfg_pins (c : Nat) (o : BitOrder) (m : Nat) (s : State) :
    (emit (.busCfg c o m) s).pins = s.pins := rfl
@[simp] theorem emit_pin_pins (p : Pin) (v : Level) (s : State) :
    (emit (.pin p v) s).pins = s.pins.set p { s.pins.get p with level := some v } := rfl
@[simp] theorem emit_cfgOut_pins (p : Pin) (s : State) :
    (emit (.cfgOut p) s).pins = s.pins.set p { s.pins.get p with cfg := true } := rfl
@[simp] theorem emit_tx_waitLeft (b : Byte) (s : State) : (emit (.tx b) s).waitLeft = s.waitLeft := rfl
@[simp] theorem emit_busCfg_waitLeft (c : Nat) (o : BitOrder) (m : Nat) (s : State) :
    (emit (.busCfg c o m) s).waitLeft = s.waitLeft := rfl
@[simp] theorem emit_pin_waitLeft (p : Pin) (v : Level) (s : State) :
    (emit (.pin p v) s).waitLeft = s.waitLeft := rfl
@[simp] theorem emit_cfgOut_waitLeft (p : Pin) (s : State) : (emit (.cfgOut p) s).waitLeft = s.waitLeft := rfl
theorem emit_delay_waitLeft_untimed (t : Nat) (s : State) (h : s.params.form = .untimed) :
    (emit (.delay t) s).waitLeft = s.waitLeft := by simp [emit, h]
theorem emit_delay_waitLeft_timed (t : Nat) (s : State) (h : s.params.form = .timed) :
    (emit (.delay t) s).waitLeft = t := by simp [emit, h]

/-! The two buffers. -/

@[simp] theorem withMem_lb_lb (m : Memory) (s : State) : (s.withMem .lb m).lb = m := rfl
@[simp] theorem withMem_lb_fb (m : Memory) (s : State) : (s.withMem .lb m).fb = s.fb := rfl
@[simp] theorem withMem_fb_fb (m : Memory) (s : State) : (s.withMem .fb m).fb = m := rfl
@[simp] theorem withMem_fb_lb (m : Memory) (s : State) : (s.withMem .fb m).lb = s.lb := rfl
@[simp] theorem withMem_mem (sp : Space) (m : Memory) (s : State) : (s.withMem sp m).mem sp = m := by
  cases sp <;> rfl
@[simp] theorem mem_lb (s : State) : s.mem .lb = s.lb := rfl
@[simp] theorem mem_fb (s : State) : s.mem .fb = s.fb := rfl
@[simp] theorem spaceLen_lb (p : Params) : spaceLen p .lb = p.bpr := rfl
@[simp] theorem spaceLen_fb (p : Params) : spaceLen p .fb = p.fbLen := rfl
theorem mem_congr {s t : State} (hl : t.lb = s.lb) (hf : t.fb = s.fb) (sp : Space) : t.mem sp = s.mem sp := by
  cases sp <;> simp [hl, hf]

/-! The two ways a command ends without its effect. -/

@[simp] theorem raiseDrop_eq (s : State) : raiseDrop s = setDrop true s := rfl
@[simp] theorem raiseReject_eq (r : RejectReason) (s : State) : raiseReject r s = setIll s := rfl

/-! Pins. -/

@[simp] theorem pins_get_set_same (ps : Pins) (p : Pin) (x : PinState) : (ps.set p x).get p = x := by
  cases p <;> rfl
theorem pins_get_set_ne (ps : Pins) {p q : Pin} (h : q ≠ p) (x : PinState) : (ps.set p x).get q = ps.get q := by
  cases p <;> cases q <;> first | exact absurd rfl h | rfl
@[simp] theorem pins_get_sel (ps : Pins) : ps.get .sel = ps.sel := rfl
@[simp] theorem pins_get_disp (ps : Pins) : ps.get .disp = ps.disp := rfl
@[simp] theorem pins_get_pol (ps : Pins) : ps.get .pol = ps.pol := rfl
@[simp] theorem pins_set_sel (ps : Pins) (x : PinState) : ps.set .sel x = { ps with sel := x } := rfl
@[simp] theorem pins_set_disp (ps : Pins) (x : PinState) : ps.set .disp x = { ps with disp := x } := rfl
@[simp] theorem pins_set_pol (ps : Pins) (x : PinState) : ps.set .pol x = { ps with pol := x } := rfl

/-! The outside. -/

@[simp] theorem afterTx_cmdIn (o : Outside) : o.afterTx.cmdIn = o.cmdIn := rfl
@[simp] theorem afterTx_turns (o : Outside) : o.afterTx.turns = o.turns := rfl
@[simp] theorem afterTx_reads (o : Outside) : o.afterTx.reads = o.reads := rfl
@[simp] theorem afterPeriph_cmdIn (o : Outside) : o.afterPeriph.cmdIn = o.cmdIn := rfl
@[simp] theorem afterPeriph_turns (o : Outside) : o.afterPeriph.turns = o.turns := rfl
@[simp] theorem afterPeriph_reads (o : Outside) : o.afterPeriph.reads = o.reads := rfl

end Sys2Proof.Machine
end

