-- ==== Sys2Proof/Laws/Ops.lean ====
section
/-! SUPPORT. One lemma for everything each shared operation can do: the buffer accesses, the three byte-level endings,
the request check, the port, the turns, and what any command at all can come to. -/

namespace Sys2Proof.Machine

/-! ### Geometry -/

theorem geometry_facts {p : Params} (h : p.geometryOk = true) :
    8 ≤ p.width ∧ p.width % 8 = 0 ∧ p.width ≤ 65528 ∧ 1 ≤ p.height ∧ p.height ≤ 255 := by
  simp only [Params.geometryOk, Bool.and_eq_true, decide_eq_true_eq] at h
  exact ⟨h.1.1.1.1, h.1.1.1.2, h.1.1.2, h.1.2, h.2⟩

/-- `WIDTH = 8 * BPR`, and `BPR` fits the 13 bits of `BYTE_IDX`. -/
theorem bpr_facts {p : Params} (h : p.geometryOk = true) :
    p.width = 8 * p.bpr ∧ 1 ≤ p.bpr ∧ p.bpr ≤ 8191 := by
  have := geometry_facts h
  unfold Params.bpr
  omega

/-- `FB_LEN` fits the 21 bits of `SRC_PTR`. -/
theorem fbLen_lt {p : Params} (h : p.geometryOk = true) : p.fbLen ≤ 2088705 := by
  have h1 := bpr_facts h
  have h2 := geometry_facts h
  calc p.fbLen = p.bpr * p.height := rfl
    _ ≤ 8191 * 255 := Nat.mul_le_mul h1.2.2 h2.2.2.2.2
    _ = 2088705 := by norm_num

theorem legal_facts {p : Params} (h : p.legal = true) :
    p.geometryOk = true ∧ p.modeWrite ≠ p.modeClear ∧ 3 ≤ p.tSetup ∧ 1 ≤ p.tHold ∧ 1 ≤ p.tIframe ∧ 1 ≤ p.tPol := by
  simp only [Params.legal, Bool.and_eq_true, decide_eq_true_eq] at h
  exact ⟨h.1.1.1.1.1, h.1.1.1.1.2, h.1.1.1.2, h.1.1.2, h.1.2, h.2⟩

/-- A row's byte lies inside the frame buffer. -/
theorem row_inside {p : Params} {row k : Nat} (hr : row < p.height) (hk : k < p.bpr) :
    row * p.bpr + k < p.fbLen := by
  have h : (row + 1) * p.bpr ≤ p.height * p.bpr := Nat.mul_le_mul_right _ hr
  have e : p.fbLen = p.height * p.bpr := Nat.mul_comm _ _
  rw [Nat.add_mul] at h
  omega

theorem inRange_iff (v : U16) (n : Nat) : inRange v n = true ↔ 1 ≤ v.toNat ∧ v.toNat ≤ n := by
  simp [inRange]

theorem colByte_inside {p : Params} {col : U16} (h : p.geometryOk = true) (hc : inRange col p.width = true) :
    colByte col < p.bpr := by
  have h1 := (inRange_iff _ _).1 hc
  have h2 := bpr_facts h
  unfold colByte
  omega

theorem flatOffset_inside {p : Params} {line : U16} {k : Nat} (hl : inRange line p.height = true) (hk : k < p.bpr) :
    flatOffset p line k < p.fbLen := by
  have h1 := (inRange_iff _ _).1 hl
  exact row_inside (by omega) hk

/-! ### Requests -/

/-- A line the panel has is loaded into `ADDR` as it is. -/
theorem loadAddr_toNat {l draw : Nat} (h : l < 256) : (loadAddr l draw).toNat = l := by
  simp only [loadAddr, h, if_true, BitVec.toNat_ofNat]
  omega

/-- A well-formed request that sends anything names lines 1 to `HEIGHT`, so `ADDR` holds the first of them. -/
theorem request_lines_inside {p : Params} {l n : Nat} {sp : Space} {r : Nat}
    (h : wellFormedRequest p l n sp r = true) : 1 ≤ l ∧ l + n ≤ p.height + 1 ∧ 1 ≤ r := by
  simp only [wellFormedRequest, Bool.and_eq_true, decide_eq_true_eq] at h
  exact ⟨h.1.1.1, h.1.1.2, h.1.2⟩

/-! ### Buffer accesses -/

theorem memRead_inside {sp : Space} {a : Nat} {s : State} {k : Byte → Result} (h : a < spaceLen s.params sp) :
    memRead sp a s k = k ((s.mem sp).read a) := if_pos h

theorem memWrite_inside {sp : Space} {a : Nat} {v : Byte} {s : State} {k : State → Result}
    (h : a < spaceLen s.params sp) :
    memWrite sp a v s k = k (s.withMem sp ((s.mem sp).write a v)) := if_pos h

theorem memRead_next {sp : Space} {a : Nat} {s t : State} {k : Byte → Result} (h : memRead sp a s k = .next t) :
    a < spaceLen s.params sp ∧ k ((s.mem sp).read a) = .next t := by
  unfold memRead at h
  split at h
  · exact ⟨‹_›, h⟩
  · cases h

theorem memWrite_next {sp : Space} {a : Nat} {v : Byte} {s t : State} {k : State → Result}
    (h : memWrite sp a v s k = .next t) :
    a < spaceLen s.params sp ∧ k (s.withMem sp ((s.mem sp).write a v)) = .next t := by
  unfold memWrite at h
  split at h
  · exact ⟨‹_›, h⟩
  · cases h

theorem writeByte_inside {sp : Space} {a : Nat} {v : Byte} {s : State} (h : a < spaceLen s.params sp) :
    writeByte sp a v s = .next (setDrop false (s.withMem sp ((s.mem sp).write a v))) := memWrite_inside h

theorem writePixel_inside {sp : Space} {a bit : Nat} {w : Bool} {s : State} (h : a < spaceLen s.params sp) :
    writePixel sp a bit w s =
      .next (setDrop false (s.withMem sp ((s.mem sp).write a (putPixel ((s.mem sp).read a) bit w)))) := by
  rw [writePixel, memRead_inside h, memWrite_inside h]

theorem copyByte_inside {sp : Space} {src dst : Nat} {s : State} (hs : src < spaceLen s.params sp)
    (hd : dst < spaceLen s.params sp) :
    copyByte sp src dst s =
      .next (setDrop false (s.withMem sp ((s.mem sp).write dst ((s.mem sp).read src)))) := by
  rw [copyByte, memRead_inside hs, memWrite_inside hd]

/-! ### What a command can come to -/

/-- Everything a command can do to the state, whichever command it is. -/
inductive Effect (s : State) : State → Prop where
  | rejected : Effect s (setIll s)
  | dropped : Effect s (setDrop true s)
  | wrote (sp : Space) (a : Nat) (v : Byte) (h : a < spaceLen s.params sp) :
      Effect s (setDrop false (s.withMem sp ((s.mem sp).write a v)))
  | filled (sp : Space) (v : Byte) : Effect s (fillSpace sp v s)
  | imageBad : Effect s (setImgErr true s)
  | imageLoaded (bs : List Byte) (h : bs.length = s.params.fbLen) :
      Effect s (setImgErr false { s with fb := s.fb.load 0 bs })
  | linesAccepted (l n : Nat) (sp : Space) (r : Nat) (hl : s.life = .ready)
      (hw : wellFormedRequest s.params l n sp r = true) : Effect s (acceptLines l n sp r s)
  | clearAccepted (hl : s.life = .ready) : Effect s (goto .t1 (clearTxFail { s with kind := .clear }))
  | initAnswered (hl : s.life = .uninit) :
      Effect s (beginInit s.env.periphAnswer { s with env := s.env.afterPeriph })

theorem writeByte_effect {sp : Space} {a : Nat} {v : Byte} {s t : State} (h : writeByte sp a v s = .next t) :
    Effect s t := by
  obtain ⟨ha, h⟩ := memWrite_next h
  cases h
  exact .wrote sp a v ha

theorem writePixel_effect {sp : Space} {a bit : Nat} {w : Bool} {s t : State}
    (h : writePixel sp a bit w s = .next t) : Effect s t := by
  obtain ⟨ha, h⟩ := memRead_next h
  rw [memWrite_inside ha] at h
  cases h
  exact .wrote sp a _ ha

theorem copyByte_effect {sp : Space} {src dst : Nat} {s t : State} (h : copyByte sp src dst s = .next t) :
    Effect s t := by
  obtain ⟨_, h⟩ := memRead_next h
  obtain ⟨hd, h⟩ := memWrite_next h
  cases h
  exact .wrote sp dst _ hd

theorem requestLines_effect {l n : Nat} {sp : Space} {r : Nat} {s t : State}
    (h : requestLines l n sp r s = .next t) : Effect s t := by
  unfold requestLines at h
  split at h
  · cases h; exact .rejected
  · split at h
    · cases h; exact .rejected
    · cases h
      exact .linesAccepted l n sp r (by simp_all) (by simp_all)

/-- The inversion lemma of `exec`: a next state comes about in one of nine ways. -/
theorem exec_next {i : Instr} {s t : State} (h : exec i s = .next t) : Effect s t := by
  cases i with
  | sysInit =>
    simp only [exec, execSysInit] at h
    split at h
    · cases h; exact .rejected
    · cases h; exact .initAnswered (by simp_all)
  | lbSetPixel col white =>
    simp only [exec, execLbSetPixel] at h
    split at h
    · cases h; exact .rejected
    · split at h
      · cases h; exact .dropped
      · exact writePixel_effect h
  | lbSetByte idx value =>
    simp only [exec, execLbSetByte] at h
    split at h
    · cases h; exact .dropped
    · exact writeByte_effect h
  | lbCopyByte src dst =>
    simp only [exec, execLbCopyByte] at h
    split at h
    · cases h; exact .dropped
    · split at h
      · cases h; exact .dropped
      · exact copyByte_effect h
  | lbFillBlack => cases h; exact .filled .lb _
  | lbFillWhite => cases h; exact .filled .lb _
  | fbSetPixel col line white =>
    simp only [exec, execFbSetPixel] at h
    split at h
    · cases h; exact .rejected
    · split at h
      · cases h; exact .dropped
      · split at h
        · cases h; exact .dropped
        · exact writePixel_effect h
  | fbSetByte idx line value =>
    simp only [exec, execFbSetByte] at h
    split at h
    · cases h; exact .dropped
    · split at h
      · cases h; exact .dropped
      · exact writeByte_effect h
  | fbCopyByte sidx sline didx dline =>
    simp only [exec, execFbCopyByte] at h
    split at h
    · cases h; exact .dropped
    · split at h
      · cases h; exact .dropped
      · exact copyByte_effect h
  | fbFillBlack => cases h; exact .filled .fb _
  | fbFillWhite => cases h; exact .filled .fb _
  | fbLoadImage payload =>
    simp only [exec, execFbLoadImage] at h
    split at h
    · cases h; exact .imageBad
    · cases h; exact .imageLoaded payload (by simp_all)
  | txSendLines start count srcsel row =>
    simp only [exec, execTxSendLines] at h
    split at h
    · cases h; exact .rejected
    · exact requestLines_effect h
  | txWriteLb line => exact requestLines_effect h
  | txWriteFb => exact requestLines_effect h
  | panelClear =>
    simp only [exec, execPanelClear] at h
    split at h
    · cases h; exact .rejected
    · cases h; exact .clearAccepted (by simp_all)
  | panelNop => cases h; exact .rejected

/-! ### The port and the turns -/

/-- The last byte of a command: the port hands the command over with an empty assembly buffer. -/
theorem portStep_runs {s : State} {b : Byte} {rest left : List Byte} {i : Instr} (hq : s.env.cmdIn = b :: rest)
    (hd : decode (s.cbuf ++ [b]) = .ok (i, left)) :
    portStep s = .runs i { s with cbuf := [], env := { s.env with cmdIn := left ++ rest } } := by
  simp [portStep, hq, hd]

theorem portStep_takes {s : State} {b : Byte} {rest : List Byte} (hq : s.env.cmdIn = b :: rest)
    (hd : decode (s.cbuf ++ [b]) = .error .incomplete) :
    portStep s = .takes { s with cbuf := s.cbuf ++ [b], env := { s.env with cmdIn := rest } } := by
  simp [portStep, hq, hd]

theorem portStep_rejects {s : State} {b op : Byte} {rest : List Byte} (hq : s.env.cmdIn = b :: rest)
    (hd : decode (s.cbuf ++ [b]) = .error (.illegalOpcode op)) :
    portStep s = .rejects (setIll { s with cbuf := [], env := { s.env with cmdIn := rest } }) := by
  simp [portStep, hq, hd]

theorem portStep_waits {s : State} (hq : s.env.cmdIn = []) : portStep s = .waits s := by
  simp [portStep, hq]

/-- What the port can have done when its turn is over. -/
inductive PortEffect (s : State) : State → Prop where
  | waits (hq : s.env.cmdIn = []) : PortEffect s s
  | takes (b : Byte) (rest : List Byte) (hq : s.env.cmdIn = b :: rest)
      (hd : decode (s.cbuf ++ [b]) = .error .incomplete) :
      PortEffect s { s with cbuf := s.cbuf ++ [b], env := { s.env with cmdIn := rest } }
  | rejects (b op : Byte) (rest : List Byte) (hq : s.env.cmdIn = b :: rest)
      (hd : decode (s.cbuf ++ [b]) = .error (.illegalOpcode op)) :
      PortEffect s (setIll { s with cbuf := [], env := { s.env with cmdIn := rest } })
  | runs (b : Byte) (rest left : List Byte) (i : Instr) (t : State) (hq : s.env.cmdIn = b :: rest)
      (hd : decode (s.cbuf ++ [b]) = .ok (i, left))
      (he : Effect { s with cbuf := [], env := { s.env with cmdIn := left ++ rest } } t) : PortEffect s t

/-- What a turn of the main timeline can have done. -/
inductive MainEffect (s : State) : State → Prop where
  | waited (h : delayRunning s = true) : MainEffect s s
  | sequenced (hb : busy s = true) (t : State) (h : seqStep s = .next t) : MainEffect s t
  | ported (hb : busy s = false) (t : State) (h : PortEffect s t) : MainEffect s t

theorem mainMove_next {s t : State} (h : mainMove s = .next t) : MainEffect s t := by
  unfold mainMove mainSelect at h
  by_cases h2 : delayRunning s = true
  · simp only [h2, if_true] at h; cases h; exact .waited h2
  by_cases h3 : busy s = true
  · simp only [h2, h3, if_true] at h; exact .sequenced h3 t h
  have hb : busy s = false := by simpa using h3
  refine .ported hb t ?_
  simp only [h2, h3, if_false, Bool.false_eq_true] at h
  cases hq : s.env.cmdIn with
  | nil => rw [portStep_waits hq] at h; cases h; exact .waits hq
  | cons b rest =>
    cases hd : decode (s.cbuf ++ [b]) with
    | ok r =>
      obtain ⟨i, left⟩ := r
      rw [portStep_runs hq hd] at h
      exact .runs b rest left i t hq hd (exec_next h)
    | error e =>
      cases e with
      | incomplete => rw [portStep_takes hq hd] at h; cases h; exact .takes b rest hq hd
      | illegalOpcode op => rw [portStep_rejects hq hd] at h; cases h; exact .rejects b op rest hq hd

/-- What one step can have done: the turn taken, then that agent's move from the state the draw leaves. -/
inductive StepEffect (s : State) : State → Prop where
  | main (h : nextTurn s = .main) (t : State) (e : MainEffect (afterTurn s) t) : StepEffect s t
  | timer (h : nextTurn s = .timer) : StepEffect s (timerMove (afterTurn s))
  | read (n : Nat) (h : nextTurn s = .read n) : StepEffect s (hostRead n (afterTurn s))
  | reset (h : nextTurn s = .reset) : StepEffect s (hardReset (afterTurn s))

/-- The inversion lemma of `step`. -/
theorem step_next {s t : State} (h : step s = .next t) : StepEffect s t := by
  unfold step at h
  split at h
  · split at h
    · exact .main ‹_› t (mainMove_next h)
    · cases h; exact .timer ‹_›
    · cases h; exact .read _ ‹_›
    · cases h; exact .reset ‹_›
  · cases h

/-! ### The timer -/

/-- What a turn of the timer can have done. -/
inductive TimerEffect (s : State) : State → Prop where
  | toggled (h : polEnabled s = true) (hp : s.params.form = .untimed ∨ halfPeriodOver s = true) :
      TimerEffect s (polToggle s)
  | idle : TimerEffect s s
  | waited (hf : s.params.form = .timed) (h : s.polRun = false ∨ s.polPend = true) :
      TimerEffect s { s with waitLeft := s.waitLeft - 1 }
  | counted (hf : s.params.form = .timed) (hr : s.polRun = true) (hp : s.polPend = false)
      (h : 2 ≤ s.polCnt ∨ polEnabled s = true) :
      TimerEffect s { s with waitLeft := s.waitLeft - 1, polCnt := s.polCnt - 1, polPend := false }
  | deferred (hf : s.params.form = .timed) (hr : s.polRun = true) (h : polEnabled s = false) (hc : s.polCnt ≤ 1) :
      TimerEffect s { s with waitLeft := s.waitLeft - 1, polCnt := 0, polPend := true }

theorem timerMove_effect (s : State) : TimerEffect s (timerMove s) := by
  unfold timerMove
  split
  · next hf =>
    split
    · next h => exact .toggled h (.inl hf)
    · exact .idle
  · next hf =>
    split
    · next h =>
      simp only [polDueNow, Bool.and_eq_true] at h
      exact .toggled h.2 (.inr h.1)
    · unfold elapse
      by_cases h1 : (!s.polRun || s.polPend) = true
      · simp only [h1, if_true]; exact .waited hf (by simpa using h1)
      · have hr : s.polRun = true := by simp_all
        have hp : s.polPend = false := by simp_all
        simp only [h1, if_false]
        by_cases h3 : polEnabled s = true
        · simp only [h3, Bool.not_true, Bool.and_false]
          exact .counted hf hr hp (.inr h3)
        · have h3 : polEnabled s = false := by simpa using h3
          by_cases h2 : s.polCnt ≤ 1
          · have e : s.polCnt - 1 = 0 := by omega
            simp only [h2, h3, e, decide_true, Bool.not_false, Bool.and_self]
            exact .deferred hf hr h3 h2
          · simp only [h2, h3, decide_false, Bool.false_and]
            exact .counted hf hr hp (.inl (by omega))

end Sys2Proof.Machine
end

