-- ==== Sys2Proof/Laws/PerInstr.lean ====
section
/-! SUPPORT. The family CommandLength: an encoding has the length its opcode and `len` announce (30_encoding.md R72,
R76), one lemma per constructor. -/

namespace Sys2Proof.Laws.CommandLength

/-- The encoding is as long as `commandLength` reads off its first bytes. -/
def Statement (i : Instr) : Prop := i.encodable = true → commandLength (encode i) = (encode i).length

theorem sysInit : Statement .sysInit := fun _ => rfl
theorem lbSetPixel (col : U16) (white : Byte) : Statement (.lbSetPixel col white) := fun _ => rfl
theorem lbSetByte (idx : U16) (value : Byte) : Statement (.lbSetByte idx value) := fun _ => rfl
theorem lbCopyByte (src dst : U16) : Statement (.lbCopyByte src dst) := fun _ => rfl
theorem lbFillBlack : Statement .lbFillBlack := fun _ => rfl
theorem lbFillWhite : Statement .lbFillWhite := fun _ => rfl
theorem fbSetPixel (col line : U16) (white : Byte) : Statement (.fbSetPixel col line white) := fun _ => rfl
theorem fbSetByte (idx line : U16) (value : Byte) : Statement (.fbSetByte idx line value) := fun _ => rfl
theorem fbCopyByte (sidx sline didx dline : U16) : Statement (.fbCopyByte sidx sline didx dline) := fun _ => rfl
theorem fbFillBlack : Statement .fbFillBlack := fun _ => rfl
theorem fbFillWhite : Statement .fbFillWhite := fun _ => rfl
theorem fbLoadImage (payload : List Byte) : Statement (.fbLoadImage payload) := fun h => by
  let v := BitVec.ofNat 32 payload.length
  have e : commandLength (encode (.fbLoadImage payload)) = 5 + (u32 (BitVec.ofNat 8 (v.toNat / 16777216))
    (BitVec.ofNat 8 (v.toNat / 65536)) (BitVec.ofNat 8 (v.toNat / 256)) (BitVec.ofNat 8 v.toNat)).toNat := rfl
  have l : (encode (.fbLoadImage payload)).length = payload.length + 5 := rfl
  rw [e, l, u32_of_bytes, toNat_len_of_fits h]
  omega
theorem txSendLines (start count : U16) (srcsel : Byte) (row : U16) :
    Statement (.txSendLines start count srcsel row) := fun _ => rfl
theorem txWriteLb (line : U16) : Statement (.txWriteLb line) := fun _ => rfl
theorem txWriteFb : Statement .txWriteFb := fun _ => rfl
theorem panelClear : Statement .panelClear := fun _ => rfl
theorem panelNop : Statement .panelNop := fun _ => rfl

end Sys2Proof.Laws.CommandLength
end

