-- ==== Sys2Proof/Laws/Safety.lean ====
section
/-! SUPPORT. The small lemmas of the statements' vocabulary: polarity writes and the rest of a trace, the outside and the
invariant. -/

namespace Sys2Proof.Machine

@[simp] theorem noPol_append (a b : List Event) : noPol (a ++ b) = noPol a ++ noPol b := List.filter_append ..

@[simp] theorem polWrites_append (a b : List Event) : polWrites (a ++ b) = polWrites a ++ polWrites b :=
  List.filter_append ..

@[simp] theorem noPol_pol (v : Level) : noPol [.pin .pol v] = [] := rfl

@[simp] theorem polWrites_pol (v : Level) : polWrites [.pin .pol v] = [.pin .pol v] := rfl

@[simp] theorem noPol_tx (b : Byte) : noPol [.tx b] = [.tx b] := rfl

@[simp] theorem polWrites_tx (b : Byte) : polWrites [.tx b] = [] := rfl

/-- The outside is no part of the invariant. -/
theorem inv_of_outside {s : State} (o : Outside) (h : Inv s) : Inv { s with env := o } := by
  cases h
  constructor <;> assumption

end Sys2Proof.Machine
end

