-- ==== Sys2Proof/Tests/Slice0.lean ====
section
/-! SUPPORT. The model's own tests: well-formedness, decoding of words from the spec (95_test_vectors.md 3.7), one-step
vectors of each command (3.2 to 3.6), and a witness for the hypotheses of every statement. -/

namespace Sys2Proof.Tests
open Sys2Proof.Machine

/-! ### Helpers -/

/-- The instance of 95_test_vectors.md section 1, with small numbers for the OPEN parameters. -/
def params : Params where
  width     := 16
  height    := 4
  modeWrite := 0x80
  modeClear := 0x20
  modeNop   := 0x00
  tSetup    := 3
  tHold     := 1
  tIframe   := 1
  tPwr      := 40
  tDisp1    := 20
  tDisp2    := 30
  tPol      := 5
  busClock  := 2000000
  busOrder  := .msbFirst
  busMode   := 0
  polArb    := .locked
  form      := .untimed

/-- An outside with these bytes at the port and these turns, every answer of the environment true. -/
def outside (bytes : List Byte) (turns : List Turn) : Outside :=
  { Outside.start with cmdIn := bytes, turns := turns, txOk := List.replicate 8 true, periphOk := [true] }

/-- After reset. -/
def fresh (bytes : List Byte := []) (turns : List Turn := [.main]) : State := State.resetWith params (outside bytes turns)

/-- After SYS.INIT has completed (45_lifecycle.md R199), `OUT` left empty. -/
def readyState (bytes : List Byte := []) (turns : List Turn := [.main]) : State :=
  { fresh bytes turns with
    life := .ready, polRun := true
    pins := ⟨⟨true, some .low⟩, ⟨true, some .high⟩, ⟨true, some .low⟩⟩ }

/-- A Write-Lines transaction whose last line group, line 4 from row 4 of `FB`, is about to begin. -/
def busyState (turns : List Turn := [.main]) : State :=
  { readyState [] turns with
    kind := .write, phase := .t4a, addr := 4, linesLeft := 1, srcSpace := .fb, srcPtr := 6
    pins := ⟨⟨true, some .high⟩, ⟨true, some .high⟩, ⟨true, some .low⟩⟩
    out := [.pin .sel .high, .delay 3, .tx 0x80] }

/-- The timed form of the same instance. -/
def timed (s : State) : State := { s with params := { s.params with form := .timed } }

/-- A buffer holding these bytes from offset 0 on. -/
def holding (bs : List Byte) : Memory := Memory.load [] 0 bs

/-- What a test looks at in a next state. -/
def look {α : Type} (f : State → α) (r : Result) : Option α :=
  match r with
  | .next t => some (f t)
  | .fault _ => none
  | .refused _ => none

/-- The two bytes of `LB` and `STATUS`. -/
def lbView (t : State) : List Byte × BitVec 8 := (bytesAt t.lb 0 2, statusReg t)

/-- The eight bytes of `FB` and `STATUS`. -/
def fbView (t : State) : List Byte × BitVec 8 := (bytesAt t.fb 0 8, statusReg t)

def withLb (bs : List Byte) : State := { fresh with lb := holding bs }

def withFb (bs : List Byte) : State := { fresh with fb := holding bs }

/-! ### Well-formedness -/

theorem test_bool8_reserved_in_lb : (Instr.lbSetPixel 1 0x02).wellFormed = false := by decide

theorem test_bool8_reserved_in_fb : (Instr.fbSetPixel 1 1 0xFF).wellFormed = false := by decide

theorem test_src8_reserved : (Instr.txSendLines 1 1 0x02 1).wellFormed = false := by decide

theorem test_legal_operands : (Instr.lbSetPixel 1 0x01).wellFormed = true ∧
    (Instr.fbSetPixel 1 1 0x00).wellFormed = true ∧ (Instr.txSendLines 1 1 0x01 1).wellFormed = true := by decide

/-- A payload of 2^32 bytes has no encoding: `len` is a `u32`. -/
theorem test_payload_too_long (payload : List Byte) (h : payload.length = 4294967296) :
    (Instr.fbLoadImage payload).wellFormed = false := by
  simp [Instr.wellFormed, payloadFits, h]

/-! ### Decoding: the words of 95_test_vectors.md 3.7 -/

theorem test_decode_no_operand :
    [0x01, 0x13, 0x14, 0x23, 0x24, 0x32, 0x33, 0x34].map (fun b => decode [b]) =
      [.sysInit, .lbFillBlack, .lbFillWhite, .fbFillBlack, .fbFillWhite, .txWriteFb, .panelClear, .panelNop].map
        (fun i => .ok (i, [])) := by decide

theorem test_decode_lbSetPixel : decode [0x10, 0x00, 0x09, 0x00] = .ok (.lbSetPixel 9 0x00, []) := by decide

theorem test_decode_lbSetPixel_high_byte : decode [0x10, 0x01, 0x90, 0x01] = .ok (.lbSetPixel 400 0x01, []) := by
  decide

theorem test_decode_lbSetByte : decode [0x11, 0x00, 0x02, 0xA5] = .ok (.lbSetByte 2 0xA5, []) := by decide

theorem test_decode_lbCopyByte : decode [0x12, 0x00, 0x01, 0x00, 0x02] = .ok (.lbCopyByte 1 2, []) := by decide

theorem test_decode_fbSetPixel : decode [0x20, 0x00, 0x0A, 0x00, 0x03, 0x00] = .ok (.fbSetPixel 10 3 0x00, []) := by
  decide

theorem test_decode_fbSetByte : decode [0x21, 0x00, 0x02, 0x00, 0x03, 0xA5] = .ok (.fbSetByte 2 3 0xA5, []) := by
  decide

theorem test_decode_fbCopyByte :
    decode [0x22, 0x00, 0x01, 0x00, 0x01, 0x00, 0x02, 0x00, 0x04] = .ok (.fbCopyByte 1 1 2 4, []) := by decide

theorem test_decode_fbLoadImage :
    decode [0x25, 0x00, 0x00, 0x00, 0x02, 0xAA, 0xBB] = .ok (.fbLoadImage [0xAA, 0xBB], []) := by decide

theorem test_decode_txSendLines :
    decode [0x30, 0x00, 0x02, 0x00, 0x02, 0x01, 0x00, 0x02] = .ok (.txSendLines 2 2 0x01 2, []) := by decide

theorem test_decode_txWriteLb : decode [0x31, 0x00, 0x03] = .ok (.txWriteLb 3, []) := by decide

/-- "Operand bytes are never opcodes", and an incomplete command (95_test_vectors.md 3.7). -/
theorem test_decode_operand_is_no_opcode : decode [0x11, 0x00, 0x01, 0x13] = .ok (.lbSetByte 1 0x13, []) ∧
    decode [0x10, 0x00, 0x01] = .error .incomplete ∧ decode [0x00, 0x13] = .error (.illegalOpcode 0x00) := by decide

/-- "`25 00 00 00 03 13 14 23 24` is one FB.LOADIMAGE ... followed by FB.FILLWHITE" (95_test_vectors.md 3.3). -/
theorem test_decode_payload_is_no_opcode : decode [0x25, 0x00, 0x00, 0x00, 0x03, 0x13, 0x14, 0x23, 0x24] =
    .ok (.fbLoadImage [0x13, 0x14, 0x23], [0x24]) := by decide

/-- Opcode-table words: `10 01 90 01` has its first byte in bits 7..0. -/
theorem test_decodeTableWord : decodeTableWord 32 0x01900110 = some (.lbSetPixel 400 0x01) := by decide

/-- A row whose operand bytes the word leaves out: they are zero. -/
theorem test_decodeTableWord_short : decodeTableWord 8 0x31 = some (.txWriteLb 0) ∧
    decodeTableWord 8 0x25 = some (.fbLoadImage []) ∧ decodeTableWord 8 0x02 = none := by decide

/-- The examples of 30_encoding.md R78, and the aliases of R79. -/
theorem test_assembler : (Instr.lbSetPixel 9 0x00).asm = "LB.SETPIXEL 9, 0" ∧
    encode (.lbSetPixel 9 0x00) = [0x10, 0x00, 0x09, 0x00] ∧
    (Instr.txFlushRows 2 2).asm = "TX.SENDLINES 2, 2, FB, 2" ∧
    encode (Instr.txFlushRows 2 2) = [0x30, 0x00, 0x02, 0x00, 0x02, 0x01, 0x00, 0x02] ∧
    encode Instr.lbClear = [0x14] ∧ encode Instr.fbClear = [0x24] := by decide

/-! ### The bit codec: 95_test_vectors.md 3.1 -/

theorem test_rev8 : ([0x00, 0x01, 0x02, 0x03, 0x05, 0x12, 0x55, 0x5F, 0x6A, 0xB0, 0xC5, 0xC8, 0xEF, 0xFE] :
    List Byte).map rev8 = [0x00, 0x80, 0x40, 0xC0, 0xA0, 0x48, 0xAA, 0xFA, 0x56, 0x0D, 0xA3, 0x13, 0xF7, 0x7F] := by
  decide

/-! ### One step of each command: 95_test_vectors.md 3.2 to 3.5 -/

theorem test_lbSetPixel_black : look lbView (exec (.lbSetPixel 9 0x00) (withLb [0xFF, 0xFF])) =
    some ([0xFF, 0x7F], 0x00) := by decide

theorem test_lbSetPixel_reserved_first : look lbView (exec (.lbSetPixel 0 0xFF) (withLb [0xFF, 0xFF])) =
    some ([0xFF, 0xFF], 0x40) := by decide

theorem test_lbSetByte : look lbView (exec (.lbSetByte 2 0xA5) (withLb [0xFF, 0xFF])) =
    some ([0xFF, 0xA5], 0x00) := by decide

theorem test_lbSetByte_dropped : look lbView (exec (.lbSetByte 3 0x00) (withLb [0xFF, 0xFF])) =
    some ([0xFF, 0xFF], 0x20) := by decide

theorem test_lbCopyByte : look lbView (exec (.lbCopyByte 2 1) (withLb [0x3C, 0xA5])) =
    some ([0xA5, 0xA5], 0x00) := by decide

theorem test_lbCopyByte_dropped : look lbView (exec (.lbCopyByte 1 3) (withLb [0x3C, 0xA5])) =
    some ([0x3C, 0xA5], 0x20) := by decide

theorem test_lbFillBlack : look lbView (exec .lbFillBlack (setDrop true (withLb [0x3C, 0xA5]))) =
    some ([0x00, 0x00], 0x20) := by decide

theorem test_lbFillWhite : look (fun t => t.lb) (exec .lbFillWhite (withLb [0x3C, 0xA5])) = some [] := by decide

theorem test_fbSetPixel : look fbView (exec (.fbSetPixel 10 3 0x00) fresh) =
    some ([0xFF, 0xFF, 0xFF, 0xFF, 0xFF, 0xBF, 0xFF, 0xFF], 0x00) := by decide

theorem test_fbSetPixel_no_spill : look fbView (exec (.fbSetPixel 17 1 0x01) (withFb (List.replicate 8 0x00))) =
    some (List.replicate 8 0x00, 0x20) := by decide

theorem test_fbSetByte : look fbView (exec (.fbSetByte 2 3 0xA5) fresh) =
    some ([0xFF, 0xFF, 0xFF, 0xFF, 0xFF, 0xA5, 0xFF, 0xFF], 0x00) := by decide

theorem test_fbSetByte_dropped : look fbView (exec (.fbSetByte 1 5 0x55) fresh) =
    some (List.replicate 8 0xFF, 0x20) := by decide

theorem test_fbCopyByte :
    look fbView (exec (.fbCopyByte 2 2 1 3) (withFb [0x80, 0x00, 0x00, 0x3C, 0x00, 0x00, 0x00, 0x01])) =
      some ([0x80, 0x00, 0x00, 0x3C, 0x3C, 0x00, 0x00, 0x01], 0x00) := by decide

theorem test_fbCopyByte_dropped : look fbView (exec (.fbCopyByte 1 5 1 1) fresh) =
    some (List.replicate 8 0xFF, 0x20) := by decide

theorem test_fbFillBlack : look fbView (exec .fbFillBlack fresh) = some (List.replicate 8 0x00, 0x00) := by decide

theorem test_fbFillWhite : look (fun t => t.fb) (exec .fbFillWhite (withFb [0x11, 0x22])) = some [] := by decide

theorem test_fbLoadImage :
    look fbView (exec (.fbLoadImage [0x01, 0x02, 0x03, 0x04, 0x05, 0x06, 0x07, 0x08]) (setImgErr true fresh)) =
      some ([0x01, 0x02, 0x03, 0x04, 0x05, 0x06, 0x07, 0x08], 0x00) := by decide

theorem test_fbLoadImage_short : look fbView (exec (.fbLoadImage [0x01, 0x02, 0x03]) (withFb [0x11, 0x22])) =
    some ([0x11, 0x22, 0xFF, 0xFF, 0xFF, 0xFF, 0xFF, 0xFF], 0x10) := by decide

/-- TX.SENDLINES 2, 2, FB, 2: the registers of 43_transmit.md R153. -/
theorem test_txSendLines : look (fun t => (t.phase, t.addr, t.linesLeft, t.srcPtr, statusReg t))
    (exec (.txSendLines 2 2 0x01 2) readyState) = some (.t1, 2, 2, 2, 0x03) := by decide

theorem test_txSendLines_bad_range : look (fun t => (t.phase, statusReg t))
    (exec (.txSendLines 1 2 0x00 1) readyState) = some (.idle, 0x42) := by decide

theorem test_txWriteLb : look (fun t => (t.phase, t.addr, t.linesLeft, t.srcSpace))
    (exec (.txWriteLb 4) readyState) = some (.t1, 4, 1, .lb) := by decide

theorem test_txWriteLb_bad_range : look (fun t => (t.phase, statusReg t)) (exec (.txWriteLb 5) readyState) =
    some (.idle, 0x42) := by decide

theorem test_txWriteFb : look (fun t => (t.phase, t.addr, t.linesLeft, t.srcPtr)) (exec .txWriteFb readyState) =
    some (.t1, 1, 4, 0) := by decide

theorem test_panelClear : look (fun t => (t.kind, t.phase, statusReg t)) (exec .panelClear readyState) =
    some (.clear, .t1, 0x03) := by decide

theorem test_panelClear_not_ready : look (fun t => (t.phase, statusReg t)) (exec .panelClear fresh) =
    some (.idle, 0x40) := by decide

theorem test_panelNop : look (fun t => (t.phase, statusReg t)) (exec .panelNop readyState) =
    some (.idle, 0x42) := by decide

theorem test_sysInit : look (fun t => (t.phase, t.life, statusReg t)) (exec .sysInit fresh) =
    some (.i1a, .initing, 0x01) := by decide

theorem test_sysInit_fails :
    look (fun t => (t.life, statusReg t, t.out))
      (exec .sysInit { fresh with env := { Outside.start with periphOk := [false] } }) =
    some (.failed, 0x04, []) := by decide

/-- At T4A the address byte goes out reversed: line 4 is `0x20`. -/
theorem test_sequencer_address : look (fun t => (t.phase, t.out.getLast?)) (step busyState) =
    some (.t4d, some (.tx 0x20)) := by decide

/-- 95_test_vectors.md 3.6: the timer's first write is high, and none happens in the select window. -/
theorem test_timer : look (fun t => (t.polState, t.out)) (step (readyState [] [.timer])) =
    some (.high, [.pin .pol .high]) ∧
    look (fun t => t.out.length) (step (busyState [.timer])) = some 3 := by decide

/-- The host's placing of a table word: the next step runs it. -/
theorem test_withFetchWord : look lbView (step ((fresh [] []).withFetchWord 32 0x00090010)) =
    some ([0xFF, 0x7F], 0x00) := by decide

/-! ### Witnesses: states and operands that meet the hypotheses of each statement -/

theorem fresh_inv (bytes : List Byte) (turns : List Turn) : Inv (fresh bytes turns) :=
  inv_of_outside (s := fresh) (outside bytes turns) (by constructor <;> first | decide | trivial)

theorem ready_inv (bytes : List Byte) (turns : List Turn) : Inv (readyState bytes turns) :=
  inv_of_outside (s := readyState) (outside bytes turns) (by constructor <;> first | decide | trivial)

theorem busy_inv (turns : List Turn) : Inv (busyState turns) :=
  inv_of_outside (s := busyState) (outside [] turns)
    (by constructor <;> first | decide | exact ⟨by decide, .inr (by decide)⟩)

/-- A failed SYS.INIT, with an illegal opcode rejected before it. -/
def failedState : State :=
  { fresh with life := .failed, flags := { Flags.reset with initFail := true, ill := true } }

theorem failed_inv : Inv failedState := by
  constructor <;> first | decide | trivial

theorem witness_encodable : (Instr.fbLoadImage [0xAA, 0xBB]).encodable = true ∧
    6 < (encode (.fbLoadImage [0xAA, 0xBB])).length := by decide

theorem witness_decoded : decode [0x31, 0x00, 0x03, 0x13] = .ok (.txWriteLb 3, [0x13]) := by decide

/-- The last byte of LB.SETBYTE 2, 0xA5 stands at the port, the first three in `CBUF`. -/
theorem witness_StepRunsTheDecodedCommand :
    let s := { readyState [0xA5, 0x13] with cbuf := [0x11, 0x00, 0x02] }
    s.params.geometryOk = true ∧ nextTurn s = .main ∧ delayRunning s = false ∧
      s.phase = .idle ∧ s.env.cmdIn = 0xA5 :: [0x13] ∧
      decode (s.cbuf ++ [0xA5]) = .ok (.lbSetByte 2 0xA5, []) := by decide

theorem witness_StepRunsTheSequencer :
    busyState.params.geometryOk = true ∧ nextTurn busyState = .main ∧ busy busyState = true ∧
      delayRunning busyState = false := by decide

theorem witness_StepKeepsAnIncompleteCommand :
    let s := readyState [0x11]
    s.params.geometryOk = true ∧ nextTurn s = .main ∧ delayRunning s = false ∧
      s.phase = .idle ∧ s.env.cmdIn = 0x11 :: [] ∧ decode (s.cbuf ++ [0x11]) = .error .incomplete ∧
      (readyState []).env.cmdIn = [] ∧ nextTurn (readyState []) = .main := by decide

/-- `0x34`, and `0x15`, the byte after the last line buffer opcode. -/
theorem witness_IllegalOpcodeBytesAreRejected :
    let s := readyState [0x34]
    s.params.geometryOk = true ∧ nextTurn s = .main ∧ delayRunning s = false ∧
      s.phase = .idle ∧ s.env.cmdIn = 0x34 :: [] ∧ s.cbuf = [] ∧
      (readyState [0x15]).env.cmdIn = 0x15 :: [] := by decide

theorem witness_BusyBlockKeepsPortAndBuffers : busy busyState = true ∧ busyState.kind ≠ .init ∧
    nextTurn busyState ≠ .reset ∧ ∃ t, step busyState = .next t :=
  ⟨by decide, by decide, by decide, _, rfl⟩

theorem witness_ResetLeavesTheSpecValues :
    (busyState [.reset]).params.geometryOk = true ∧ nextTurn (busyState [.reset]) = .reset := by decide

theorem witness_legal_instance : params.legal = true := by decide

/-- Columns and indices at both ends of their ranges and one step outside, for `BPR = 2` and `HEIGHT = 4`. -/
theorem witness_line_buffer_commands :
    fresh.params.geometryOk = true ∧ fresh.lb.wf = true ∧ (withLb [0x3C, 0xA5]).lb.wf = true ∧
      (0x02 : Byte) ≠ 0x00 ∧ (0x02 : Byte) ≠ 0x01 ∧
      (0 : U16).toNat < 1 ∧ fresh.params.width < (17 : U16).toNat ∧ (16 : U16).toNat ≤ fresh.params.width ∧
      fresh.params.bpr < (3 : U16).toNat ∧ (2 : U16).toNat ≤ fresh.params.bpr ∧ 1 ≤ (1 : U16).toNat := by decide

theorem witness_frame_buffer_commands :
    fresh.params.geometryOk = true ∧ fresh.fb.wf = true ∧ (withFb [0x11, 0x22]).fb.wf = true ∧
      fresh.params.width < (17 : U16).toNat ∧ (16 : U16).toNat ≤ fresh.params.width ∧
      fresh.params.height < (5 : U16).toNat ∧ (4 : U16).toNat ≤ fresh.params.height ∧
      fresh.params.bpr < (3 : U16).toNat ∧ (2 : U16).toNat ≤ fresh.params.bpr ∧ (0 : U16).toNat < 1 := by decide

theorem witness_FbLoadImageReplacesAllOrNothing :
    (List.replicate 8 (0x01 : Byte)).length = fresh.params.fbLen ∧
      (List.replicate 7 (0x01 : Byte)).length ≠ fresh.params.fbLen ∧
      (List.replicate 9 (0x01 : Byte)).length < 4294967296 := by decide

theorem witness_TransmitBeforeReadyIsRejected : fresh.life ≠ .ready ∧ failedState.life ≠ .ready := by decide

/-- Line 5; two lines from `LB`; row 2 of `LB`; rows 4 and 5 of `FB`; row 0; line 0. -/
theorem witness_IllFormedRequestsAreRejected :
    let h := readyState.params.height
    ¬ (1 ≤ 4 ∧ 4 + 2 ≤ h + 1 ∧ 1 = 1 ∧ 2 ≤ 1) ∧ ¬ (1 ≤ 1 ∧ 1 + 2 ≤ h + 1 ∧ 1 = 1 ∧ 2 ≤ 1) ∧
      ¬ (1 ≤ 1 ∧ 1 + 1 ≤ h + 1 ∧ 2 = 1 ∧ 1 ≤ 1) ∧ ¬ (1 ≤ 1 ∧ 1 + 2 ≤ h + 1 ∧ 1 ≤ 4 ∧ 4 + 2 ≤ h + 1) ∧
      ¬ (1 ≤ 1 ∧ 1 + 1 ≤ h + 1 ∧ 1 ≤ 0 ∧ 0 + 1 ≤ h + 1) ∧ ¬ (1 ≤ 0 ∧ 0 ≤ h) ∧ ¬ (1 ≤ 5 ∧ 5 ≤ h) := by decide

/-- No lines at all after the last line, one line from `LB`, all four lines of `FB`, the last line alone. -/
theorem witness_WellFormedRequestsLoadTheSequencer :
    readyState.params.geometryOk = true ∧ readyState.life = .ready ∧
      wellFormedRequest params 5 0 .lb 1 = true ∧ wellFormedRequest params 4 1 .lb 1 = true ∧
      wellFormedRequest params 1 4 .fb 1 = true ∧ wellFormedRequest params 4 1 .fb 4 = true ∧
      wellFormedRequest params 5 0 .fb 5 = true := by decide

theorem witness_SysInitIsAcceptedOnce :
    readyState.life ≠ .uninit ∧ fresh.life = .uninit ∧ fresh.env.periphAnswer = true ∧
      Outside.periphAnswer { Outside.start with periphOk := [false] } = false := by decide

theorem witness_PowerUpSequenceEndsReady :
    Inv fresh ∧ fresh.life = .uninit ∧ fresh.phase = .idle ∧ fresh.env.periphAnswer = true :=
  ⟨fresh_inv _ _, by decide, by decide, by decide⟩

theorem witness_SendLinesEmitsItsFrame :
    Inv readyState ∧ readyState.phase = .idle ∧ readyState.life = .ready ∧
      wellFormedRequest readyState.params (2 : U16).toNat (2 : U16).toNat .fb (2 : U16).toNat = true :=
  ⟨ready_inv _ _, by decide, by decide, by decide⟩

theorem witness_running_sequence : Inv busyState ∧ busy busyState = true ∧ ∃ t, seqStep busyState = .next t :=
  ⟨busy_inv _, by decide, _, rfl⟩

/-- A step that emits a `Tx`, and one that does not. -/
theorem witness_FailedBytesSetTxFail :
    look (fun t => t.out) (seqStep busyState) = some (busyState.out ++ [.tx 0x20]) ∧
      look (fun t => t.out) (seqStep { busyState with phase := .t6 }) = some (busyState.out ++ [.delay 1]) := by
  decide

theorem witness_TimerStepTogglesThePin :
    let s := readyState [] [.timer]
    s.params.geometryOk = true ∧ s.params.form = .untimed ∧ nextTurn s = .timer ∧ s.polRun = true ∧
      lockOf s = .free ∧ lockOf (busyState [.timer]) = .tx ∧ (busyState [.timer]).params.polArb = .locked := by decide

/-- The six clauses: a stopped timer, the counts where counting, falling due and being due meet, free and locked, pending both
ways. -/
theorem witness_TimedTimerCountsAndDefers :
    let f := timed (fresh [] [.timer])
    let s := timed (readyState [] [.timer])
    let l := timed (busyState [.timer])
    f.params.geometryOk = true ∧ f.params.form = .timed ∧ f.polRun = false ∧ nextTurn f = .timer ∧
      s.polRun = true ∧ nextTurn s = .timer ∧ s.polPend = false ∧
      2 ≤ ({ s with polCnt := 2 } : State).polCnt ∧ polEnabled { s with polCnt := 1 } = true ∧
      polEnabled { l with polCnt := 1 } = false ∧ polEnabled { l with polPend := true, polCnt := 0 } = false ∧
      polEnabled { s with polPend := true, polCnt := 0 } = true ∧ polEnabled { s with polCnt := 0 } = true := by decide

/-- A transaction about to begin, its toggle due in the same instant (60_exceptions.md R218 (b)). -/
def tieState (turns : List Turn) : State :=
  { timed (readyState [] turns) with kind := .clear, phase := .t1, polCnt := 0 }

theorem tie_inv (turns : List Turn) : Inv (tieState turns) :=
  inv_of_outside (s := tieState []) (outside [] turns) (by constructor <;> first | decide | trivial)

/-- The last microsecond of the delay before `I8`, and of the half-period: line `Pin(DISP,1), Delay(T_DISP1)` of R199. -/
def endingDelay : State :=
  { timed (fresh [] [.timer]) with
    life := .initing, kind := .init, phase := .i8, polRun := true, polCnt := 1, waitLeft := 1
    pins := ⟨⟨true, some .low⟩, ⟨true, some .high⟩, ⟨true, some .low⟩⟩ }

theorem endingDelay_inv : Inv endingDelay := by constructor <;> first | decide | trivial

theorem witness_ExpiryAndSequencerStepComeInEitherOrder :
    Inv (tieState [.main]) ∧ Inv (tieState [.timer]) ∧ busy (tieState []) = true ∧
      polDueNow (tieState [.main]) = true ∧ (tieState [.main]).waitLeft = 0 ∧ (tieState []).params.polArb = .locked ∧
      Inv endingDelay ∧ busy endingDelay = true ∧ endingDelay.polPend = false ∧ polEnabled endingDelay = true ∧
      nextTurn endingDelay = .timer :=
  ⟨tie_inv _, tie_inv _, by decide, by decide, by decide, by decide, endingDelay_inv, by decide, by decide, by decide,
    by decide⟩

/-- "if the sequencer's `T1` goes first the toggle waits for `T7`, if the timer goes first the toggle precedes `Pin(SEL,1)`"
(60_exceptions.md R218 (b)). -/
theorem test_tie_both_orders :
    look (fun t => (t.out, t.polPend, polEnabled t)) (step (tieState [.main])) =
      some ([.pin .sel .high], true, false) ∧
    look (fun t => (t.out, t.phase)) (step (tieState [.timer])) = some ([.pin .pol .high], .t1) := by decide

/-- The same at `I8`: the microsecond that ends the delay emits nothing, then either write of the pin may come first. -/
theorem test_tie_after_delay :
    look (fun t => (t.out, t.waitLeft, polDueNow t)) (step endingDelay) = some ([], 0, true) ∧
    look (fun t => t.out) (step { endingDelay with polCnt := 0, waitLeft := 0, env := outside [] [.main] }) =
      some [.pin .pol .low] ∧
    look (fun t => t.out) (step { endingDelay with polCnt := 0, waitLeft := 0 }) = some [.pin .pol .high] := by decide

theorem witness_NoPolarityWriteWhileLocked :
    busyState.params.polArb = .locked ∧ lockOf busyState = .tx ∧ nextTurn busyState ≠ .reset ∧
      ∃ t, step busyState = .next t := ⟨by decide, by decide, by decide, _, rfl⟩

theorem witness_TimerTouchesOnlyPolarity :
    nextTurn (readyState [] [.timer]) = .timer ∧ ∃ t, step (readyState [] [.timer]) = .next t :=
  ⟨by decide, _, rfl⟩

theorem witness_OnlyResetStopsTheTimer :
    readyState.polRun = true ∧ nextTurn readyState ≠ .reset ∧ ∃ t, step readyState = .next t :=
  ⟨by decide, by decide, _, rfl⟩

theorem witness_PinFollowsPolarityStateAfterInit :
    Inv (readyState [] [.timer]) ∧ (readyState [] [.timer]).life = .ready ∧
      nextTurn (readyState [] [.timer]) ≠ .reset ∧
      (readyState [] [.timer]).pins.pol.level = some (readyState [] [.timer]).polState ∧
      look (fun t => t.out) (step (readyState [] [.timer])) = some [.pin .pol .high] :=
  ⟨ready_inv _ _, by decide, by decide, by decide, by decide⟩

/-- The three positions of SYS.INIT, after a timer toggle (95_test_vectors.md 3.6 (a): afterwards `POL_STATE = High`). -/
theorem witness_SequencerLeavesTheTimerState :
    let s := { fresh with kind := .init, polRun := true, polState := .high }
    look (fun t => (t.polState, t.out)) (seqStep { s with phase := .i5c }) = some (.high, [.pin .pol .low]) ∧
      look (fun t => (t.polState, t.out)) (seqStep { s with phase := .i8 }) = some (.high, [.pin .pol .low]) ∧
      look (fun t => (t.polState, t.out)) (seqStep { s with phase := .i3 }) = some (.low, []) ∧
      look (fun t => t.polPend) (seqStep (tieState [])) = some true := by decide

theorem witness_HostReadsReturnTheRegisters :
    (readyState [] [.read 2]).params.geometryOk = true ∧ nextTurn (readyState [] [.read 2]) = .read 2 ∧
      nextTurn (busyState [.read 0]) = .read 0 := by decide

theorem witness_StickyBitsStayUntilReset :
    Inv failedState ∧ nextTurn failedState ≠ .reset ∧ failedState.flags.ill = true ∧
      failedState.flags.initFail = true ∧ failedState.life = .failed ∧ ∃ t, step failedState = .next t :=
  ⟨failed_inv, by decide, by decide, by decide, by decide, _, rfl⟩

theorem witness_TimedDelaysHoldTheMainTimeline :
    let s := { timed busyState with phase := .t2 }
    let w := { timed busyState with waitLeft := 1 }
    s.params.geometryOk = true ∧ s.params.form = .timed ∧
      look (fun t => (t.out, t.waitLeft)) (seqStep s) = some (s.out ++ [.delay 3], 3) ∧
      nextTurn w = .main ∧ 0 < w.waitLeft ∧ (∃ t, step w = .next t) ∧
      nextTurn (timed (fresh [] [.timer])) = .timer ∧
      look (fun t => t.waitLeft) (step { timed (fresh [] [.timer]) with waitLeft := 1 }) = some 0 ∧
      polDueNow { timed readyState with polPend := true, waitLeft := 1 } = true :=
  ⟨by decide, by decide, by decide, by decide, by decide, ⟨_, rfl⟩, by decide, by decide, by decide⟩

theorem witness_InstanceNeverChanges :
    (∃ t, step readyState = .next t) ∧
      ({ fresh with params := { params with width := 12 } } : State).params.geometryOk = false :=
  ⟨⟨_, rfl⟩, by decide⟩

theorem witness_StepKeepsTheInvariant : Inv busyState ∧ ∃ t, step busyState = .next t := ⟨busy_inv _, _, rfl⟩

theorem witness_StepKeepsTheTraceDiscipline :
    Inv busyState ∧ TraceInv busyState ∧ ∃ t, step busyState = .next t :=
  ⟨busy_inv _, ⟨.groupStart 0, by decide, 0, rfl, .inl rfl⟩, _, rfl⟩

theorem witness_EveryInterleavingLeavesTheSameTrace :
    Inv busyState ∧ busy busyState = true ∧ nextTurn busyState ≠ .reset ∧ ∃ t, step busyState = .next t :=
  ⟨busy_inv _, by decide, by decide, _, rfl⟩

/-- TX.SENDLINES 1, 0, FB, 1: seven steps to `IDLE` (95_test_vectors.md 3.4: `ENV(80 00)`). -/
theorem witness_FlushEmitsItsFrameUnderEverySchedule :
    let s := readyState [] (List.replicate 7 .main)
    Inv s ∧ s.phase = .idle ∧ s.life = .ready ∧ s.cbuf = [] ∧ s.env.cmdIn = [] ∧
      wellFormedRequest s.params (1 : U16).toNat (0 : U16).toNat .fb (1 : U16).toNat = true ∧
      ∃ t u : State, exec (.txSendLines 1 0 0x01 1) s = .next t ∧ (∀ x ∈ t.env.turns, x ≠ .reset) ∧
        Host.Core.run Sys2Proof.core 7 t = .next u ∧ u.phase = .idle ∧
        u.out = [.pin .sel .high, .delay 3, .tx 0x80, .tx 0x00, .delay 1, .pin .sel .low, .delay 1] :=
  ⟨ready_inv _ _, by decide, by decide, by decide, by decide, by decide, _, _, rfl, by decide, rfl, by decide,
    by decide⟩

/-- The boundary operands of the other commands of that statement, in the same state. -/
theorem witness_Flush_operands :
    wellFormedRequest params (4 : U16).toNat (1 : U16).toNat .lb (1 : U16).toNat = true ∧
      1 ≤ (1 : U16).toNat ∧ (4 : U16).toNat ≤ readyState.params.height ∧
      (∃ t, exec (.txWriteLb 4) readyState = .next t) ∧ (∃ t, exec .txWriteFb readyState = .next t) ∧
      ∃ t, exec .panelClear readyState = .next t :=
  ⟨by decide, by decide, by decide, ⟨_, rfl⟩, ⟨_, rfl⟩, _, rfl⟩

/-- A state whose run has ended, with every later turn free. -/
def Quiet (s : State) : Prop :=
  s.params = params ∧ s.phase = .idle ∧ s.env.cmdIn = [] ∧ s.env.turns = [] ∧ s.waitLeft = 0

/-- It takes a step, whichever agent moves, and stays so. -/
theorem quiet_step {s : State} (h : Quiet s) : ∃ t, step s = .next t ∧ Quiet t := by
  obtain ⟨hp, hi, hq, ht, hw⟩ := h
  have hg : s.params.geometryOk = true := by rw [hp]; decide
  have hf : s.params.form = .untimed := by rw [hp]; rfl
  by_cases hm : (timerHasMove s && Config.timerMoves s.env.draws) = true
  · have e : nextTurn s = .timer := by simp [nextTurn, ht, hm]
    refine ⟨timerMove (afterTurn s), by simp [step, hg, e], ?_⟩
    by_cases he : polEnabled (afterTurn s) = true <;>
      simp [timerMove, polToggle, emit, afterTurn, Quiet, hp, hi, hq, ht, hw] at he ⊢ <;>
      split <;> simp_all
  · have e : nextTurn s = .main := by simp [nextTurn, ht, hm]
    refine ⟨afterTurn s, ?_, by simp [Quiet, afterTurn, hp, hi, hq, ht, hw]⟩
    simp [step, hg, e, mainMove, mainSelect, delayRunning, busy, portStep, hf, hi, hq]

/-- The last step of a transaction, then quiet. -/
def closingState : State := { readyState with kind := .write, phase := .t8 }

theorem closing_inv : Inv closingState := by constructor <;> first | decide | trivial

/-- The state after `n` steps. -/
def after (s : State) : Nat → State
  | 0 => s
  | n + 1 => (look id (step (after s n))).getD s

theorem quiet_after (n : Nat) : Quiet (after closingState (n + 1)) := by
  induction n with
  | zero => exact ⟨rfl, rfl, rfl, rfl, rfl⟩
  | succ n ih =>
    obtain ⟨t, ht, hq⟩ := quiet_step ih
    rw [after, ht]
    exact hq

/-- A weakly fair run that starts busy: it ends its transaction and is idle from then on. -/
theorem witness_FairRunsFinishTheirSequences :
    ∃ r : Nat → State, IsRun r ∧ Inv (r 0) ∧ WeaklyFair r ∧ busy (r 0) = true := by
  have idle : ∀ n, busy (after closingState (n + 1)) = false := fun n => by simp [busy, (quiet_after n).2.1]
  refine ⟨after closingState, ?_, closing_inv, ⟨fun n h => ?_, fun n h => ?_⟩, rfl⟩
  · intro n
    cases n with
    | zero => rfl
    | succ n =>
      obtain ⟨t, ht, _⟩ := quiet_step (quiet_after n)
      rw [ht, after, ht]
      rfl
  · have := h (n + 1) (by omega)
    rw [idle n] at this
    cases this
  · have := h (n + 1) (by omega)
    simp [polDueNow, halfPeriodOver, (quiet_after n).1, params] at this

theorem witness_EndedRunsStayEnded :
    ended readyState = true ∧ nextTurn readyState ≠ .reset ∧ ∃ t, step readyState = .next t :=
  ⟨by decide, by decide, _, rfl⟩

end Sys2Proof.Tests
end

/-! SUPPORT. Hardware reset: the rows of 10_state.md R34 hold of the reset state of every instance, and the turn of
hardware reset leads to that state. -/

namespace Sys2Proof.Machine

/-- R20, R21: a byte no command has written reads as the reset content. -/
@[simp] theorem Memory.read_nil (a : Nat) : Memory.read [] a = 0xFF := rfl

@[simp] theorem Pins.get_reset (q : Pin) : Pins.reset.get q = ⟨false, none⟩ := by cases q <;> rfl

/-- R31: an idle block holds no lock, whatever the working register `KIND` says. -/
theorem lockOf_of_idle {s : State} (h : s.phase = .idle) : lockOf s = .free := by
  simp [lockOf, inSelectWindow, h]

/-- R27: with every stored flag clear, outside READY and idle, `STATUS` reads zero. -/
theorem statusReg_eq_zero {s : State} (hf : s.flags = Flags.reset) (hl : s.life = .uninit) (hp : s.phase = .idle) :
    statusReg s = 0x00 := by
  rw [statusReg, ready, busy, hf, hl, hp]
  rfl

/-- The step at the turn of hardware reset, from any state of a legal geometry (R240). -/
theorem step_of_reset_turn {s : State} (hg : s.params.geometryOk = true) (ht : nextTurn s = .reset) :
    step s = .next (hardReset (afterTurn s)) := by
  simp [step, hg, ht]

/-- R34, of every instance and every outside. -/
theorem resetRows_resetWith (p : Params) (o : Outside) : ResetRows (State.resetWith p o) := by
  have buffers : ∀ a, Memory.read [] a = 0xFF := Memory.read_nil
  have pins : ∀ q : Pin, (Pins.reset.get q).cfg = false ∧ (Pins.reset.get q).level = none := by simp
  have status : statusReg (State.resetWith p o) = 0x00 := statusReg_eq_zero rfl rfl rfl
  have lock : lockOf (State.resetWith p o) = .free := lockOf_of_idle rfl
  exact ⟨buffers, buffers, pins, rfl, rfl, rfl, rfl, rfl, status, rfl, rfl, rfl, rfl, lock, rfl⟩

theorem resetRows_hardReset (s : State) : ResetRows (hardReset s) := resetRows_resetWith s.params s.env

/-- Settles O10: both states are `State.resetWith` of an instance and an outside, of which every row of R34 holds. -/
theorem resetLeavesTheSpecValues : Obligations.ResetLeavesTheSpecValues := by
  unfold Obligations.ResetLeavesTheSpecValues
  refine ⟨resetRows_resetWith Config.params Outside.start, fun s hg ht => ?_⟩
  exact ⟨hardReset (afterTurn s), step_of_reset_turn hg ht, by simp, resetRows_hardReset (afterTurn s)⟩

end Sys2Proof.Machine

/-! SUPPORT. Where the bytes of a Write-Lines frame stand (30_encoding.md R82, R83): a line group holds `BPR + 2` bytes,
so group `k` of a frame begins `k * (BPR + 2)` bytes after the mode byte. -/

namespace Sys2Proof.Machine

@[simp] theorem length_bytesAt (m : Memory) (off k : Nat) : (bytesAt m off k).length = k := by
  simp [bytesAt]

theorem getElem?_bytesAt (m : Memory) (off : Nat) {j k : Nat} (h : j < k) :
    (bytesAt m off k)[j]? = some (m.read (off + j)) := by
  simp [bytesAt, h]

/-- One line group (R82): `lineGroups` is a concatenation of these, by `lineGroups_succ`. -/
def lineGroup (p : Params) (m : Memory) (addr off : Nat) : List Byte :=
  rev8 (BitVec.ofNat 8 addr) :: (bytesAt m off p.bpr ++ [pad])

@[simp] theorem length_lineGroup (p : Params) (m : Memory) (addr off : Nat) :
    (lineGroup p m addr off).length = p.bpr + 2 := by
  simp [lineGroup]

@[simp] theorem lineGroup_address (p : Params) (m : Memory) (addr off : Nat) :
    (lineGroup p m addr off)[0]? = some (rev8 (BitVec.ofNat 8 addr)) := rfl

theorem lineGroup_data (p : Params) (m : Memory) (addr off : Nat) {j : Nat} (h : j < p.bpr) :
    (lineGroup p m addr off)[j + 1]? = some (m.read (off + j)) := by
  rw [lineGroup, List.getElem?_cons_succ, List.getElem?_append_left (by simpa using h), getElem?_bytesAt m off h]

@[simp] theorem lineGroup_trailer (p : Params) (m : Memory) (addr off : Nat) :
    (lineGroup p m addr off)[p.bpr + 1]? = some pad := by
  simp [lineGroup]

theorem lineGroups_succ (p : Params) (m : Memory) (addr off n : Nat) :
    lineGroups p m addr off (n + 1) = lineGroup p m addr off ++ lineGroups p m (addr + 1) (off + p.bpr) n := by
  simp [lineGroups, lineGroup]

@[simp] theorem length_lineGroups (p : Params) (m : Memory) (addr off n : Nat) :
    (lineGroups p m addr off n).length = n * (p.bpr + 2) := by
  induction n generalizing addr off with
  | zero => simp [lineGroups]
  | succ n ih => rw [lineGroups_succ, List.length_append, ih, length_lineGroup, Nat.succ_mul, Nat.add_comm]

/-- Byte `i` of group `k` within `n` groups from an address and an offset on. -/
theorem getElem?_lineGroups (p : Params) (m : Memory) (addr off : Nat) {n k i : Nat} (hk : k < n)
    (hi : i < p.bpr + 2) :
    (lineGroups p m addr off n)[k * (p.bpr + 2) + i]? = (lineGroup p m (addr + k) (off + k * p.bpr))[i]? := by
  induction n generalizing addr off k with
  | zero => exact absurd hk (Nat.not_lt_zero k)
  | succ n ih =>
    rw [lineGroups_succ]
    cases k with
    | zero => simp [List.getElem?_append_left, hi]
    | succ k =>
      have position : (k + 1) * (p.bpr + 2) + i = (lineGroup p m addr off).length + (k * (p.bpr + 2) + i) := by
        rw [length_lineGroup, Nat.succ_mul]
        omega
      have offset : off + p.bpr + k * p.bpr = off + (k + 1) * p.bpr := by
        rw [Nat.succ_mul]
        omega
      rw [position, List.getElem?_append_right (Nat.le_add_right ..), Nat.add_sub_cancel_left,
        ih (addr + 1) (off + p.bpr) (Nat.lt_of_succ_lt_succ hk), offset, Nat.add_right_comm, Nat.add_assoc]

/-- R83. -/
@[simp] theorem length_writeFrame (p : Params) (m : Memory) (l n r : Nat) :
    (writeFrame p m l n r).length = 2 + n * (p.bpr + 2) := by
  rw [writeFrame, List.length_cons, List.length_append, length_lineGroups, List.length_singleton]
  omega

theorem writeFrame_mode (p : Params) (m : Memory) (l n r : Nat) : (writeFrame p m l n r)[0]? = some p.modeWrite := rfl

theorem writeFrame_trailer (p : Params) (m : Memory) (l n r : Nat) :
    (writeFrame p m l n r)[1 + n * (p.bpr + 2)]? = some pad := by
  simp [writeFrame, Nat.add_comm 1]

/-- Byte `i` of group `k` of a frame; its address is that of line `l + k`, its data is `k` rows after row `r` (R84). -/
theorem writeFrame_group (p : Params) (m : Memory) (l r : Nat) {n k i : Nat} (hk : k < n) (hi : i < p.bpr + 2) :
    (writeFrame p m l n r)[1 + k * (p.bpr + 2) + i]? =
      (lineGroup p m (l + k) ((r - 1) * p.bpr + k * p.bpr))[i]? := by
  have inside : k * (p.bpr + 2) + i < n * (p.bpr + 2) :=
    calc k * (p.bpr + 2) + i < (k + 1) * (p.bpr + 2) := by rw [Nat.succ_mul]; omega
      _ ≤ n * (p.bpr + 2) := Nat.mul_le_mul_right _ hk
  rw [writeFrame, Nat.add_assoc, Nat.add_comm 1, List.getElem?_cons_succ,
    List.getElem?_append_left (by simpa using inside), getElem?_lineGroups p m _ _ hk hi]

/-- Settles O28: every listed position is a byte of one line group, placed by `writeFrame_group`, or an end of the
frame. -/
theorem writeFrameIsLaidOutAsTheSpecSays : Obligations.WriteFrameIsLaidOutAsTheSpecSays := by
  unfold Obligations.WriteFrameIsLaidOutAsTheSpecSays
  intro p m l n r
  refine ⟨length_writeFrame p m l n r, rfl, writeFrame_mode p m l n r,
    fun k hk => ⟨?address, fun j hj => ?data, ?trailer⟩, writeFrame_trailer p m l n r⟩
  case address => exact (writeFrame_group p m l r hk (Nat.succ_pos _)).trans (lineGroup_address ..)
  case data =>
    have position : 2 + k * (p.bpr + 2) + j = 1 + k * (p.bpr + 2) + (j + 1) := by omega
    rw [position, writeFrame_group p m l r hk (by omega), lineGroup_data p m _ _ hj, Nat.add_assoc]
  case trailer => exact (writeFrame_group p m l r hk (Nat.lt_succ_self _)).trans (lineGroup_trailer ..)

end Sys2Proof.Machine

/-! SUPPORT. The bit codec (40_bit_codec.md R100, R102): the staged form of R101 puts each bit where R100 says, so `rev8`
is the library's `BitVec.reverse` on bytes, and its laws follow bit by bit. -/

namespace Sys2Proof.Machine

/-- R100 of the staged form: the three swaps of R101 followed for each of the eight positions. -/
theorem getLsbD_rev8 (b : Byte) {i : Nat} (hi : i < 8) : (rev8 b).getLsbD i = b.getLsbD (7 - i) := by
  interval_cases i <;> simp [rev8]

theorem rev8_eq_reverse (b : Byte) : rev8 b = b.reverse :=
  BitVec.eq_of_getLsbD_eq fun i hi => by
    rw [getLsbD_rev8 b hi, BitVec.getLsbD_reverse, BitVec.getMsbD_eq_getLsbD]
    simp [hi]

/-- R102 (a). -/
@[simp] theorem rev8_rev8 (b : Byte) : rev8 (rev8 b) = b := by
  rw [rev8_eq_reverse, rev8_eq_reverse, BitVec.reverse_reverse_eq]

/-- R102 (b). -/
theorem rev8_bijective : Function.Bijective rev8 := Function.Involutive.bijective rev8_rev8

@[simp] theorem rev8_and (b c : Byte) : rev8 (b &&& c) = rev8 b &&& rev8 c :=
  BitVec.eq_of_getLsbD_eq fun i hi => by simp only [BitVec.getLsbD_and, getLsbD_rev8 _ hi]

@[simp] theorem rev8_or (b c : Byte) : rev8 (b ||| c) = rev8 b ||| rev8 c :=
  BitVec.eq_of_getLsbD_eq fun i hi => by simp only [BitVec.getLsbD_or, getLsbD_rev8 _ hi]

@[simp] theorem rev8_xor (b c : Byte) : rev8 (b ^^^ c) = rev8 b ^^^ rev8 c :=
  BitVec.eq_of_getLsbD_eq fun i hi => by simp only [BitVec.getLsbD_xor, getLsbD_rev8 _ hi]

@[simp] theorem rev8_not (b : Byte) : rev8 (~~~b) = ~~~(rev8 b) :=
  BitVec.eq_of_getLsbD_eq fun i hi => by
    have mirrored : 7 - i < 8 := by omega
    simp only [BitVec.getLsbD_not, getLsbD_rev8 _ hi, hi, mirrored]

/-- The byte that reads the same from both ends and has the given low nibble. -/
def mirrorByte (low : BitVec 4) : Byte := low.reverse ++ low

/-- The low nibble of a fixed point determines it: its high nibble is the low one reversed. -/
theorem eq_mirrorByte_of_rev8_eq_self {b : Byte} (h : rev8 b = b) : b = mirrorByte (b.setWidth 4) := by
  refine BitVec.eq_of_getLsbD_eq fun i hi => ?_
  rw [mirrorByte, BitVec.getLsbD_append]
  split
  case isTrue low => simp [low]
  case isFalse high =>
    have mirrored : b.getLsbD i = b.getLsbD (7 - i) := by rw [← getLsbD_rev8 b hi, h]
    have inHigh : i - 4 < 4 := by omega
    have position : 4 - 1 - (i - 4) = 7 - i := by omega
    have inLow : 7 - i < 4 := by omega
    rw [mirrored, BitVec.getLsbD_reverse, BitVec.getMsbD_eq_getLsbD, position]
    simp [inHigh, inLow]

/-- The sixteen bytes R102 (c) lists, one for each low nibble. -/
def fixedBytes : List Byte :=
  [0x00, 0x18, 0x24, 0x3C, 0x42, 0x5A, 0x66, 0x7E, 0x81, 0x99, 0xA5, 0xBD, 0xC3, 0xDB, 0xE7, 0xFF]

theorem mirrorByte_mem_fixedBytes : ∀ low : BitVec 4, mirrorByte low ∈ fixedBytes := by decide

theorem rev8_eq_self_of_mem_fixedBytes : ∀ b ∈ fixedBytes, rev8 b = b := by decide

/-- R102 (c). -/
theorem rev8_eq_self_iff (b : Byte) : rev8 b = b ↔ b ∈ fixedBytes where
  mp h := by
    rw [eq_mirrorByte_of_rev8_eq_self h]
    exact mirrorByte_mem_fixedBytes _
  mpr := rev8_eq_self_of_mem_fixedBytes b

/-- Settles O47: the staged form puts every bit where R100 says. -/
theorem revEightReversesTheBits : Obligations.RevEightReversesTheBits := by
  unfold Obligations.RevEightReversesTheBits
  exact fun b _ hi => getLsbD_rev8 b hi

/-- Settles O48: each law of R102 from its lemma; the three line numbers of (e) are evaluated. -/
theorem revEightLaws : Obligations.RevEightLaws := by
  unfold Obligations.RevEightLaws
  obtain ⟨injective, surjective⟩ := rev8_bijective
  exact ⟨rev8_rev8, fun _ _ h => injective h, surjective, rev8_eq_self_iff,
    fun b c => ⟨rev8_and b c, rev8_or b c, rev8_xor b c, rev8_not b⟩, by decide⟩

end Sys2Proof.Machine

/-! SUPPORT. What one write leaves in a buffer, byte by byte and bit by bit, and which operands a command refuses: the
facts that both buffer families rest on (20_memory.md R50, R54, R62). -/

namespace Sys2Proof.Machine

theorem Memory.read_write_same {m : Memory} (a : Nat) (v : Byte) (h : m.wf = true) : (m.write a v).read a = v := by
  rw [Memory.read_write a a v h, if_pos rfl]

theorem Memory.read_write_ne {m : Memory} {a b : Nat} (v : Byte) (h : m.wf = true) (hb : b ≠ a) :
    (m.write a v).read b = m.read b := by
  rw [Memory.read_write a b v h, if_neg hb.symm]

/-- The mask of one pixel. -/
theorem getLsbD_one_shiftLeft {bit : Nat} (hbit : bit < 8) (i : Nat) :
    ((1 : Byte) <<< bit).getLsbD i = decide (i = bit) := by
  have single : (1 : Byte) <<< bit = BitVec.twoPow 8 bit := (BitVec.twoPow_eq 8 bit).symm
  rw [single, BitVec.getLsbD_twoPow]
  simp [hbit, eq_comm]

/-- R54: writing one pixel changes its own bit and no other bit of the byte. -/
theorem getLsbD_putPixel (v : Byte) (white : Bool) {bit : Nat} (hbit : bit < 8) (i : Nat) :
    (putPixel v bit white).getLsbD i = if i = bit then white else v.getLsbD i := by
  cases white with
  | true =>
    simp only [putPixel, if_true, BitVec.getLsbD_or, getLsbD_one_shiftLeft hbit]
    by_cases hi : i = bit <;> simp [hi]
  | false =>
    have inside : v.getLsbD i = true → i < 8 := BitVec.lt_of_getLsbD
    simp only [putPixel, Bool.false_eq_true, if_false, BitVec.getLsbD_and, BitVec.getLsbD_not,
      getLsbD_one_shiftLeft hbit]
    by_cases hi : i = bit
    · simp [hi]
    · simpa [hi] using inside

/-- R54: the byte that holds a pixel, read back after the pixel was written. -/
theorem getLsbD_read_write_putPixel {m : Memory} (a : Nat) (white : Bool) {bit : Nat} (h : m.wf = true)
    (hbit : bit < 8) (i : Nat) :
    ((m.write a (putPixel (m.read a) bit white)).read a).getLsbD i =
      if i = bit then white else (m.read a).getLsbD i := by
  rw [Memory.read_write_same a _ h, getLsbD_putPixel _ white hbit]

/-- R50: a pixel's bit is one of the eight of its byte. -/
theorem colBit_lt (col : U16) : colBit col < 8 := by
  unfold colBit
  omega

/-- R75: the encodings of `bool8` that have no meaning. -/
theorem bool8_of_reserved {b : Byte} (h0 : b ≠ 0x00) (h1 : b ≠ 0x01) : bool8 b = none := by
  rw [bool8, if_neg h0, if_neg h1]

/-- R71: the two encodings of `bool8` that have one. -/
theorem bool8_of_legal {b : Byte} (h : b = 0x00 ∨ b = 0x01) : bool8 b = some (b == 0x01) := by
  rcases h with rfl | rfl <;> rfl

/-- R62, the failing side of `inRange_iff`. -/
theorem inRange_eq_false_iff (v : U16) (n : Nat) : inRange v n = false ↔ v.toNat < 1 ∨ n < v.toNat := by
  rw [← Bool.not_eq_true, inRange_iff]
  omega

/-- R62: a byte index in range names a byte of a row. -/
theorem byteIndex_inside {p : Params} {idx : U16} (h : inRange idx p.bpr = true) : idx.toNat - 1 < p.bpr := by
  obtain ⟨hlo, hhi⟩ := (inRange_iff ..).1 h
  omega

end Sys2Proof.Machine

/-! SUPPORT. The line buffer commands (41_line_buffer.md): what `exec` answers for each, one lemma per branch of its
meaning, and how each is encoded. -/

namespace Sys2Proof.Machine

/-! ### Encodings (30_encoding.md R72, R73) -/

theorem decode_lbSetPixel_bytes (col : U16) (white : Byte) :
    decode (0x10 :: (u16Bytes col ++ [white])) = .ok (.lbSetPixel col white, []) := by
  simp [decode, u16Bytes, -BitVec.ofNat_toNat]

theorem decode_lbSetByte_bytes (idx : U16) (value : Byte) :
    decode (0x11 :: (u16Bytes idx ++ [value])) = .ok (.lbSetByte idx value, []) := by
  simp [decode, u16Bytes, -BitVec.ofNat_toNat]

theorem decode_lbCopyByte_bytes (src dst : U16) :
    decode (0x12 :: (u16Bytes src ++ u16Bytes dst)) = .ok (.lbCopyByte src dst, []) := by
  simp [decode, u16Bytes, -BitVec.ofNat_toNat]

/-! ### LB.SETPIXEL (R111) -/

theorem exec_lbSetPixel_of_reserved {white : Byte} (col : U16) (s : State) (h : bool8 white = none) :
    exec (.lbSetPixel col white) s = .next (setIll s) := by
  simp [exec, execLbSetPixel, h]

theorem exec_lbSetPixel_of_out_of_range {col : U16} {white : Byte} {w : Bool} {s : State} (h : bool8 white = some w)
    (hc : inRange col s.params.width = false) : exec (.lbSetPixel col white) s = .next (setDrop true s) := by
  simp [exec, execLbSetPixel, h, hc]

theorem exec_lbSetPixel_of_in_range {col : U16} {white : Byte} {w : Bool} {s : State}
    (hg : s.params.geometryOk = true) (h : bool8 white = some w) (hc : inRange col s.params.width = true) :
    exec (.lbSetPixel col white) s = .next (setDrop false (s.withMem .lb
      (s.lb.write (colByte col) (putPixel (s.lb.read (colByte col)) (colBit col) w)))) := by
  have inside : colByte col < spaceLen s.params .lb := colByte_inside hg hc
  simp [exec, execLbSetPixel, h, hc, writePixel_inside inside]

/-- Settles O12: one lemma per branch of the command; in range, the byte of the pixel is rewritten with `putPixel`, so
`getLsbD_read_write_putPixel` gives its bits and `Memory.read_write_ne` the other bytes. -/
theorem lbSetPixelWritesOneBit : Obligations.LbSetPixelWritesOneBit := by
  unfold Obligations.LbSetPixelWritesOneBit
  intro s col white hg
  refine ⟨decode_lbSetPixel_bytes col white, fun h0 h1 => ?reserved, fun hw hc => ?dropped,
    fun hw hlo hhi hwf => ?written⟩
  case reserved => exact exec_lbSetPixel_of_reserved col s (bool8_of_reserved h0 h1)
  case dropped => exact exec_lbSetPixel_of_out_of_range (bool8_of_legal hw) ((inRange_eq_false_iff ..).2 hc)
  case written =>
    have bits := getLsbD_read_write_putPixel (colByte col) (white == 0x01) hwf (colBit_lt col)
    exact ⟨_, exec_lbSetPixel_of_in_range hg (bool8_of_legal hw) ((inRange_iff ..).2 ⟨hlo, hhi⟩), rfl,
      (bits _).trans (if_pos rfl), fun i hi => (bits i).trans (if_neg hi), fun a ha => Memory.read_write_ne _ hwf ha⟩

/-! ### LB.SETBYTE (R112) -/

theorem exec_lbSetByte_of_out_of_range {idx : U16} {s : State} (value : Byte)
    (h : inRange idx s.params.bpr = false) : exec (.lbSetByte idx value) s = .next (setDrop true s) := by
  simp [exec, execLbSetByte, h]

theorem exec_lbSetByte_of_in_range {idx : U16} {s : State} (value : Byte) (h : inRange idx s.params.bpr = true) :
    exec (.lbSetByte idx value) s = .next (setDrop false (s.withMem .lb (s.lb.write (idx.toNat - 1) value))) := by
  have inside : idx.toNat - 1 < spaceLen s.params .lb := byteIndex_inside h
  simp [exec, execLbSetByte, h, writeByte_inside inside]

/-- Settles O13: out of range only `DROP` is set; in range one byte is written, which reads back as written. -/
theorem lbSetByteWritesOneByte : Obligations.LbSetByteWritesOneByte := by
  unfold Obligations.LbSetByteWritesOneByte
  intro s idx value _
  refine ⟨decode_lbSetByte_bytes idx value, fun hout => ?dropped, fun hlo hhi hwf => ?written⟩
  case dropped => exact exec_lbSetByte_of_out_of_range value ((inRange_eq_false_iff ..).2 hout)
  case written =>
    exact ⟨_, exec_lbSetByte_of_in_range value ((inRange_iff ..).2 ⟨hlo, hhi⟩), rfl,
      Memory.read_write_same _ value hwf, fun a ha => Memory.read_write_ne value hwf ha⟩

/-! ### LB.COPYBYTE (R113) -/

theorem exec_lbCopyByte_of_out_of_range {src dst : U16} {s : State}
    (h : inRange src s.params.bpr = false ∨ inRange dst s.params.bpr = false) :
    exec (.lbCopyByte src dst) s = .next (setDrop true s) := by
  cases hsrc : inRange src s.params.bpr with
  | false => simp [exec, execLbCopyByte, hsrc]
  | true =>
    have hdst : inRange dst s.params.bpr = false := h.resolve_left (by simp [hsrc])
    simp [exec, execLbCopyByte, hsrc, hdst]

theorem exec_lbCopyByte_of_in_range {src dst : U16} {s : State} (hsrc : inRange src s.params.bpr = true)
    (hdst : inRange dst s.params.bpr = true) :
    exec (.lbCopyByte src dst) s =
      .next (setDrop false (s.withMem .lb (s.lb.write (dst.toNat - 1) (s.lb.read (src.toNat - 1))))) := by
  have readInside : src.toNat - 1 < spaceLen s.params .lb := byteIndex_inside hsrc
  have writeInside : dst.toNat - 1 < spaceLen s.params .lb := byteIndex_inside hdst
  simp [exec, execLbCopyByte, hsrc, hdst, copyByte_inside readInside writeInside]

/-- Settles O14: either bad index drops the command; else the byte written is the one read before the write, so `src`
and `dst` may be the same. -/
theorem lbCopyByteCopiesOneByte : Obligations.LbCopyByteCopiesOneByte := by
  unfold Obligations.LbCopyByteCopiesOneByte
  intro s src dst _
  refine ⟨decode_lbCopyByte_bytes src dst, fun hout => ?dropped,
    fun hslo hshi hdlo hdhi hwf => ?copied⟩
  case dropped =>
    refine exec_lbCopyByte_of_out_of_range ?_
    rwa [inRange_eq_false_iff, inRange_eq_false_iff, or_assoc]
  case copied =>
    exact ⟨_, exec_lbCopyByte_of_in_range ((inRange_iff ..).2 ⟨hslo, hshi⟩) ((inRange_iff ..).2 ⟨hdlo, hdhi⟩), rfl,
      Memory.read_write_same _ _ hwf, fun a ha => Memory.read_write_ne _ hwf ha⟩

/-! ### LB.FILLBLACK and LB.FILLWHITE (R114, R115) -/

/-- Settles O15: both commands are one `fillSpace`, whose buffer is read back by `Memory.read_fill`. -/
theorem lbFillsWriteEveryByte : Obligations.LbFillsWriteEveryByte := by
  unfold Obligations.LbFillsWriteEveryByte
  intro s hwf
  have filled (v : Byte) : ∀ a, (fillSpace .lb v s).lb.read a = if a < s.params.bpr then v else s.lb.read a :=
    fun a => Memory.read_fill s.params.bpr a v hwf
  exact ⟨rfl, rfl, ⟨fillSpace .lb 0x00 s, rfl, rfl, filled 0x00⟩, ⟨fillSpace .lb 0xFF s, rfl, rfl, filled 0xFF⟩⟩

end Sys2Proof.Machine

/-! SUPPORT. The frame buffer commands (42_frame_buffer.md): what `exec` answers for each, one lemma per branch of its
meaning, and how each is encoded. -/

namespace Sys2Proof.Machine

/-! ### Encodings (30_encoding.md R72, R73, R76) -/

theorem decode_fbSetPixel_bytes (col line : U16) (white : Byte) :
    decode (0x20 :: (u16Bytes col ++ u16Bytes line ++ [white])) = .ok (.fbSetPixel col line white, []) := by
  simp [decode, u16Bytes, -BitVec.ofNat_toNat]

theorem decode_fbSetByte_bytes (idx line : U16) (value : Byte) :
    decode (0x21 :: (u16Bytes idx ++ u16Bytes line ++ [value])) = .ok (.fbSetByte idx line value, []) := by
  simp [decode, u16Bytes, -BitVec.ofNat_toNat]

theorem decode_fbCopyByte_bytes (sidx sline didx dline : U16) :
    decode (0x22 :: (u16Bytes sidx ++ u16Bytes sline ++ u16Bytes didx ++ u16Bytes dline)) =
      .ok (.fbCopyByte sidx sline didx dline, []) := by
  simp [decode, u16Bytes, -BitVec.ofNat_toNat]

/-- R76: the payload is the `len` bytes after the length, and the command is incomplete while any of them is missing. -/
theorem decode_fbLoadImage_of_len (len : BitVec 32) (bytes : List Byte) :
    decode (0x25 :: (u32Bytes len ++ bytes)) =
      if len.toNat ≤ bytes.length then .ok (.fbLoadImage (bytes.take len.toNat), bytes.drop len.toNat)
      else .error .incomplete := by
  simp [decode, u32Bytes, -BitVec.ofNat_toNat]

theorem decode_fbLoadImage_bytes {payload : List Byte} (h : payloadFits payload = true) :
    decode (0x25 :: (u32Bytes (BitVec.ofNat 32 payload.length) ++ payload)) = .ok (.fbLoadImage payload, []) := by
  rw [decode_fbLoadImage_of_len, toNat_len_of_fits h, if_pos le_rfl, List.take_length, List.drop_length]

/-- R62, R77: a byte index and a line in range name a byte of the frame buffer. -/
theorem frameByte_inside {p : Params} {idx line : U16} (hi : inRange idx p.bpr = true)
    (hl : inRange line p.height = true) : flatOffset p line (idx.toNat - 1) < spaceLen p .fb :=
  flatOffset_inside hl (byteIndex_inside hi)

/-! ### FB.SETPIXEL (R131) -/

theorem exec_fbSetPixel_of_reserved {white : Byte} (col line : U16) (s : State) (h : bool8 white = none) :
    exec (.fbSetPixel col line white) s = .next (setIll s) := by
  simp [exec, execFbSetPixel, h]

theorem exec_fbSetPixel_of_out_of_range {col line : U16} {white : Byte} {w : Bool} {s : State}
    (h : bool8 white = some w) (hout : inRange col s.params.width = false ∨ inRange line s.params.height = false) :
    exec (.fbSetPixel col line white) s = .next (setDrop true s) := by
  rcases hout with hc | hl
  · simp [exec, execFbSetPixel, h, hc]
  · simp [exec, execFbSetPixel, h, hl]

theorem exec_fbSetPixel_of_in_range {col line : U16} {white : Byte} {w : Bool} {s : State}
    (hg : s.params.geometryOk = true) (h : bool8 white = some w) (hc : inRange col s.params.width = true)
    (hl : inRange line s.params.height = true) :
    exec (.fbSetPixel col line white) s = .next (setDrop false (s.withMem .fb
      (s.fb.write (flatOffset s.params line (colByte col))
        (putPixel (s.fb.read (flatOffset s.params line (colByte col))) (colBit col) w)))) := by
  have inside : flatOffset s.params line (colByte col) < spaceLen s.params .fb :=
    flatOffset_inside hl (colByte_inside hg hc)
  simp [exec, execFbSetPixel, h, hc, hl, writePixel_inside inside]

/-- Settles O16: one lemma per branch of the command; in range, the byte of the pixel is rewritten with `putPixel`, so
`getLsbD_read_write_putPixel` gives its bits and `Memory.read_write_ne` the other bytes. -/
theorem fbSetPixelWritesOneBit : Obligations.FbSetPixelWritesOneBit := by
  unfold Obligations.FbSetPixelWritesOneBit
  intro s col line white hg
  refine ⟨decode_fbSetPixel_bytes col line white, fun h0 h1 => ?reserved, fun hw hout => ?dropped,
    fun hw hclo hchi hllo hlhi hwf => ?written⟩
  case reserved => exact exec_fbSetPixel_of_reserved col line s (bool8_of_reserved h0 h1)
  case dropped =>
    refine exec_fbSetPixel_of_out_of_range (bool8_of_legal hw) ?_
    rwa [inRange_eq_false_iff, inRange_eq_false_iff, or_assoc]
  case written =>
    have bits := getLsbD_read_write_putPixel (flatOffset s.params line (colByte col)) (white == 0x01) hwf
      (colBit_lt col)
    exact ⟨_, exec_fbSetPixel_of_in_range hg (bool8_of_legal hw) ((inRange_iff ..).2 ⟨hclo, hchi⟩)
      ((inRange_iff ..).2 ⟨hllo, hlhi⟩), rfl, (bits _).trans (if_pos rfl), fun k hk => (bits k).trans (if_neg hk),
      fun x hx => Memory.read_write_ne _ hwf hx⟩

/-! ### FB.SETBYTE (R132) -/

theorem exec_fbSetByte_of_out_of_range {idx line : U16} {s : State} (value : Byte)
    (hout : inRange idx s.params.bpr = false ∨ inRange line s.params.height = false) :
    exec (.fbSetByte idx line value) s = .next (setDrop true s) := by
  rcases hout with hi | hl
  · simp [exec, execFbSetByte, hi]
  · simp [exec, execFbSetByte, hl]

theorem exec_fbSetByte_of_in_range {idx line : U16} {s : State} (value : Byte)
    (hi : inRange idx s.params.bpr = true) (hl : inRange line s.params.height = true) :
    exec (.fbSetByte idx line value) s =
      .next (setDrop false (s.withMem .fb (s.fb.write (flatOffset s.params line (idx.toNat - 1)) value))) := by
  simp [exec, execFbSetByte, hi, hl, writeByte_inside (frameByte_inside hi hl)]

/-- Settles O17: out of range only `DROP` is set; in range one byte is written, which reads back as written. -/
theorem fbSetByteWritesOneByte : Obligations.FbSetByteWritesOneByte := by
  unfold Obligations.FbSetByteWritesOneByte
  intro s idx line value _
  refine ⟨decode_fbSetByte_bytes idx line value, fun hout => ?dropped, fun hilo hihi hllo hlhi hwf => ?written⟩
  case dropped =>
    refine exec_fbSetByte_of_out_of_range value ?_
    rwa [inRange_eq_false_iff, inRange_eq_false_iff, or_assoc]
  case written =>
    exact ⟨_, exec_fbSetByte_of_in_range value ((inRange_iff ..).2 ⟨hilo, hihi⟩) ((inRange_iff ..).2 ⟨hllo, hlhi⟩),
      rfl, Memory.read_write_same _ value hwf, fun x hx => Memory.read_write_ne value hwf hx⟩

/-! ### FB.COPYBYTE (R133) -/

theorem exec_fbCopyByte_of_out_of_range {sidx sline didx dline : U16} {s : State}
    (hout : inRange sidx s.params.bpr = false ∨ inRange sline s.params.height = false ∨
      inRange didx s.params.bpr = false ∨ inRange dline s.params.height = false) :
    exec (.fbCopyByte sidx sline didx dline) s = .next (setDrop true s) := by
  rcases hout with h | h | h | h
  all_goals simp [exec, execFbCopyByte, h]

theorem exec_fbCopyByte_of_in_range {sidx sline didx dline : U16} {s : State}
    (hsi : inRange sidx s.params.bpr = true) (hsl : inRange sline s.params.height = true)
    (hdi : inRange didx s.params.bpr = true) (hdl : inRange dline s.params.height = true) :
    exec (.fbCopyByte sidx sline didx dline) s =
      .next (setDrop false (s.withMem .fb (s.fb.write (flatOffset s.params dline (didx.toNat - 1))
        (s.fb.read (flatOffset s.params sline (sidx.toNat - 1)))))) := by
  simp [exec, execFbCopyByte, hsi, hsl, hdi, hdl,
    copyByte_inside (frameByte_inside hsi hsl) (frameByte_inside hdi hdl)]

/-- Settles O18: any bad operand drops the command; else the byte written is the one read before the write, so source
and destination may be the same. -/
theorem fbCopyByteCopiesOneByte : Obligations.FbCopyByteCopiesOneByte := by
  unfold Obligations.FbCopyByteCopiesOneByte
  intro s sidx sline didx dline _
  refine ⟨decode_fbCopyByte_bytes sidx sline didx dline, fun hout => ?dropped,
    fun hsilo hsihi hsllo hslhi hdilo hdihi hdllo hdlhi hwf => ?copied⟩
  case dropped =>
    refine exec_fbCopyByte_of_out_of_range ?_
    simpa only [inRange_eq_false_iff, or_assoc] using hout
  case copied =>
    exact ⟨_, exec_fbCopyByte_of_in_range ((inRange_iff ..).2 ⟨hsilo, hsihi⟩) ((inRange_iff ..).2 ⟨hsllo, hslhi⟩)
      ((inRange_iff ..).2 ⟨hdilo, hdihi⟩) ((inRange_iff ..).2 ⟨hdllo, hdlhi⟩), rfl,
      Memory.read_write_same _ _ hwf, fun x hx => Memory.read_write_ne _ hwf hx⟩

/-! ### FB.FILLBLACK and FB.FILLWHITE (R134, R135) -/

/-- Settles O19: both commands are one `fillSpace`, whose buffer is read back by `Memory.read_fill`. -/
theorem fbFillsWriteEveryByte : Obligations.FbFillsWriteEveryByte := by
  unfold Obligations.FbFillsWriteEveryByte
  intro s hwf
  have filled (v : Byte) : ∀ a, (fillSpace .fb v s).fb.read a = if a < s.params.fbLen then v else s.fb.read a :=
    fun a => Memory.read_fill s.params.fbLen a v hwf
  exact ⟨rfl, rfl, ⟨fillSpace .fb 0x00 s, rfl, rfl, filled 0x00⟩, ⟨fillSpace .fb 0xFF s, rfl, rfl, filled 0xFF⟩⟩

/-! ### FB.LOADIMAGE (R136) -/

/-- R136: an image loaded at offset 0 is read back byte by byte. -/
theorem Memory.read_load_image {m : Memory} {image : List Byte} {a : Nat} (hwf : m.wf = true)
    (ha : a < image.length) : (m.load 0 image).read a = image[a] := by
  simp [Memory.read_load image 0 a hwf, ha]

/-- R136: no byte after the image is touched. -/
theorem Memory.read_load_image_after {m : Memory} {image : List Byte} {a : Nat} (hwf : m.wf = true)
    (ha : image.length ≤ a) : (m.load 0 image).read a = m.read a := by
  simp [Memory.read_load image 0 a hwf, Nat.not_lt.2 ha]

theorem exec_fbLoadImage_of_length_eq {payload : List Byte} {s : State} (h : payload.length = s.params.fbLen) :
    exec (.fbLoadImage payload) s = .next (setImgErr false { s with fb := s.fb.load 0 payload }) :=
  if_neg (not_not.2 h)

theorem exec_fbLoadImage_of_length_ne {payload : List Byte} {s : State} (h : payload.length ≠ s.params.fbLen) :
    exec (.fbLoadImage payload) s = .next (setImgErr true s) := if_pos h

/-- Settles O20: the length alone decides; an image of `FB_LEN` bytes is loaded at offset 0 and read back by
`Memory.read_load_image`, any other only sets the flag. -/
theorem fbLoadImageReplacesAllOrNothing : Obligations.FbLoadImageReplacesAllOrNothing := by
  unfold Obligations.FbLoadImageReplacesAllOrNothing
  intro s payload hwf
  refine ⟨fun hfits => decode_fbLoadImage_bytes (decide_eq_true hfits), fun hlen => ?loaded,
    exec_fbLoadImage_of_length_ne⟩
  case loaded =>
    exact ⟨_, exec_fbLoadImage_of_length_eq hlen, rfl, fun _ ha => Memory.read_load_image hwf ha,
      fun _ ha => Memory.read_load_image_after hwf ha⟩

end Sys2Proof.Machine

/-! SUPPORT. The transmit commands (43_transmit.md): what `exec` answers for each before the controller is ready. -/

namespace Sys2Proof.Machine

/-! ### Before `LIFE = READY` (R151) -/

/-- The lifecycle check comes first (R218): no request, well-formed or not, is looked at before `READY`. -/
theorem requestLines_of_not_ready {s : State} (hlife : s.life ≠ .ready) (l n : Nat) (sp : Space) (r : Nat) :
    requestLines l n sp r s = .next (setIll s) :=
  if_pos (bne_iff_ne.2 hlife)

/-- Of TX.SENDLINES a reserved `srcsel` (R75) is rejected before the lifecycle check, with the same effect. -/
theorem exec_txSendLines_of_not_ready {s : State} (hlife : s.life ≠ .ready) (start count : U16) (srcsel : Byte)
    (row : U16) : exec (.txSendLines start count srcsel row) s = .next (setIll s) := by
  simp only [exec, execTxSendLines]
  cases src8 srcsel with
  | none => rfl
  | some sp => exact requestLines_of_not_ready hlife start.toNat count.toNat sp row.toNat

theorem exec_txWriteLb_of_not_ready {s : State} (hlife : s.life ≠ .ready) (line : U16) :
    exec (.txWriteLb line) s = .next (setIll s) :=
  requestLines_of_not_ready hlife line.toNat 1 .lb 1

theorem exec_txWriteFb_of_not_ready {s : State} (hlife : s.life ≠ .ready) :
    exec .txWriteFb s = .next (setIll s) :=
  requestLines_of_not_ready hlife 1 s.params.height .fb 1

theorem exec_panelClear_of_not_ready {s : State} (hlife : s.life ≠ .ready) :
    exec .panelClear s = .next (setIll s) :=
  if_pos (bne_iff_ne.2 hlife)

/-- Settles O22: the three Write-Lines commands meet the lifecycle check of `requestLines`, PANEL.CLEAR its own. -/
theorem transmitBeforeReadyIsRejected : Obligations.TransmitBeforeReadyIsRejected := by
  unfold Obligations.TransmitBeforeReadyIsRejected
  intro s hlife
  exact ⟨fun start count row srcsel => exec_txSendLines_of_not_ready hlife start count srcsel row,
    exec_txWriteLb_of_not_ready hlife, exec_txWriteFb_of_not_ready hlife, exec_panelClear_of_not_ready hlife⟩

end Sys2Proof.Machine

/-! SUPPORT. SYS.INIT run to its end (45_lifecycle.md R196, R199): the sequencer emits the four events before step I3,
starts the timer, emits the other eight, and ends by whitening `LB` and reporting `READY`. -/

namespace Sys2Proof.Machine

/-! ### Emitting a list of events -/

/-- The events of a list, emitted in order. -/
def emitAll : List Event → State → State
  | [], s => s
  | e :: es, s => emitAll es (emit e s)

@[simp] theorem emitAll_nil (s : State) : emitAll [] s = s := rfl
@[simp] theorem emitAll_cons (e : Event) (es : List Event) (s : State) :
    emitAll (e :: es) s = emitAll es (emit e s) := rfl

theorem emitAll_out (es : List Event) (s : State) : (emitAll es s).out = s.out ++ es := by
  induction es generalizing s with
  | nil => simp
  | cons e es ih => simp [ih]

/-- What no event changes, and step I3 neither. -/
structure EmitFrame (s t : State) : Prop where
  params : t.params = s.params
  lb     : t.lb = s.lb
  fb     : t.fb = s.fb
  kind   : t.kind = s.kind
  flags  : t.flags = s.flags

theorem EmitFrame.trans {s t u : State} (h : EmitFrame s t) (h' : EmitFrame t u) : EmitFrame s u :=
  ⟨h'.params.trans h.params, h'.lb.trans h.lb, h'.fb.trans h.fb, h'.kind.trans h.kind, h'.flags.trans h.flags⟩

theorem emit_frame (e : Event) (s : State) : EmitFrame s (emit e s) :=
  ⟨emit_params e s, emit_lb e s, emit_fb e s, emit_kind e s, emit_flags e s⟩

theorem emitAll_frame (es : List Event) (s : State) : EmitFrame s (emitAll es s) := by
  induction es generalizing s with
  | nil => exact ⟨rfl, rfl, rfl, rfl, rfl⟩
  | cons e es ih => exact (emit_frame e s).trans (ih (emit e s))

@[simp] theorem emit_goto (e : Event) (p : Phase) (s : State) : emit e (goto p s) = goto p (emit e s) := by
  cases e <;> rfl

@[simp] theorem goto_goto (p q : Phase) (s : State) : goto p (goto q s) = goto p s := rfl

/-! ### Runs of the sequencer -/

theorem seqRun_succ_of_step {k : Nat} {s t : State} (h : seqStep s = .next t) : seqRun (k + 1) s = seqRun k t := by
  rw [seqRun, h]

theorem seqRun_add {j k : Nat} {s t : State} (h : seqRun j s = .next t) : seqRun (j + k) s = seqRun k t := by
  induction j generalizing s with
  | zero => cases h; rw [Nat.zero_add]
  | succ j ih =>
    rw [Nat.succ_add]
    cases hstep : seqStep s with
    | next r => rw [seqRun_succ_of_step hstep] at h ⊢; exact ih h
    | fault r => rw [seqRun, hstep] at h; cases h
    | refused r => rw [seqRun, hstep] at h; cases h

/-! ### The stages of the power-up sequence (R196) -/

/-- What step I3 does: the timer runs from here (44_polarity_timer.md R182). -/
def startTimer (s : State) : State := { s with polRun := true, polState := .low, polCnt := s.params.tPol }

/-- What step I10 does. -/
def finishInit (s : State) : State := goto .idle { fillSpace .lb 0xFF s with life := .ready }

theorem seqStep_of_init {s : State} (hk : s.kind = .init) : seqStep s = initStep s := by
  rw [seqStep, hk]

/-- Steps I1a to I2. -/
theorem seqRun_i1a_to_i3 {s : State} (hk : s.kind = .init) (hp : s.phase = .i1a) :
    seqRun 4 s = .next (goto .i3 (emitAll ((initEvents s.params).take 4) s)) := by
  simp [seqRun, seqStep_of_init, initStep, hk, hp, initEvents]

theorem seqStep_i3 {s : State} (hk : s.kind = .init) : seqStep (goto .i3 s) = .next (goto .i4 (startTimer s)) :=
  seqStep_of_init hk

/-- Steps I4 to I9. -/
theorem seqRun_i4_to_i10 {s : State} (hk : s.kind = .init) :
    seqRun 8 (goto .i4 s) = .next (goto .i10 (emitAll ((initEvents s.params).drop 4) s)) := by
  simp [seqRun, seqStep_of_init, initStep, hk, initEvents]

theorem seqStep_i10 {s : State} (hk : s.kind = .init) : seqStep (goto .i10 s) = .next (finishInit s) :=
  seqStep_of_init hk

/-! ### The whole sequence -/

/-- What the steps up to I3 make of a state. -/
def timerStarted (s : State) : State := startTimer (emitAll ((initEvents s.params).take 4) s)

/-- What the steps up to I9 make of a state: all of the power-up sequence but its end. -/
def broughtUp (s : State) : State := emitAll ((initEvents s.params).drop 4) (timerStarted s)

theorem timerStarted_frame (s : State) : EmitFrame s (timerStarted s) := by
  obtain ⟨params, lb, fb, kind, flags⟩ := emitAll_frame ((initEvents s.params).take 4) s
  exact ⟨params, lb, fb, kind, flags⟩

theorem broughtUp_frame (s : State) : EmitFrame s (broughtUp s) :=
  (timerStarted_frame s).trans (emitAll_frame ..)

theorem seqRun_init {s : State} (hk : s.kind = .init) (hp : s.phase = .i1a) :
    seqRun 14 s = .next (finishInit (broughtUp s)) := by
  have timer := timerStarted_frame s
  calc seqRun 14 s
      = seqRun 10 (goto .i3 (emitAll ((initEvents s.params).take 4) s)) := seqRun_add (k := 10) (seqRun_i1a_to_i3 hk hp)
    _ = seqRun 9 (goto .i4 (timerStarted s)) := seqRun_succ_of_step (seqStep_i3 ((emitAll_frame ..).kind.trans hk))
    _ = seqRun 1 (goto .i10 (broughtUp s)) := by
        rw [broughtUp, ← timer.params]
        exact seqRun_add (k := 1) (seqRun_i4_to_i10 (timer.kind.trans hk))
    _ = .next (finishInit (broughtUp s)) :=
        seqRun_succ_of_step (seqStep_i10 ((broughtUp_frame s).kind.trans hk))

/-! ### The final state (R199) -/

/-- The twelve events in order; step I3 between them emits none. -/
theorem broughtUp_out (s : State) : (broughtUp s).out = s.out ++ initEvents s.params :=
  calc (broughtUp s).out
      = (emitAll ((initEvents s.params).take 4) s).out ++ (initEvents s.params).drop 4 := emitAll_out ..
    _ = s.out ++ initEvents s.params := by rw [emitAll_out, List.append_assoc, List.take_append_drop]

/-- Every pin is configured and driven, whatever it was before. -/
theorem broughtUp_pins (s : State) :
    (broughtUp s).pins = ⟨⟨true, some .low⟩, ⟨true, some .high⟩, ⟨true, some .low⟩⟩ := rfl

/-- Step I10 whitens `LB`. -/
theorem read_lb_finishInit {s : State} (hwf : s.lb.wf = true) {a : Nat} (ha : a < s.params.bpr) :
    (finishInit s).lb.read a = 0xFF :=
  (Memory.read_fill s.params.bpr a 0xFF hwf).trans (if_pos ha)

/-- Ready and idle, with no failure noted, `STATUS` is `0x02` and the three sticky bits of before. -/
theorem statusReg_of_ready {s u : State} (hlife : u.life = .ready) (hphase : u.phase = .idle)
    (hflags : u.flags = s.flags) (hinit : s.flags.initFail = false) (htx : s.flags.txFail = false) :
    statusReg u = 0x02 ||| (statusReg s &&& 0x70) := by
  simp only [statusReg, ready, busy, hlife, hphase, hflags, hinit, htx]
  generalize (s.life == .ready) = r, (s.phase != .idle) = b, s.flags.ill = i, s.flags.drop = d, s.flags.imgErr = g
  revert r b i d g
  decide

/-! ### SYS.INIT -/

/-- The acceptance step of SYS.INIT with a true answer to the peripheral check (R196). -/
def initAccepted (s : State) : State :=
  goto .i1a { s with life := .initing, kind := .init, env := s.env.afterPeriph }

theorem exec_sysInit_of_uninit {s : State} (hlife : s.life = .uninit) (hok : s.env.periphAnswer = true) :
    exec .sysInit s = .next (initAccepted s) := by
  simp [exec, execSysInit, beginInit, initAccepted, hlife, hok]

/-- Settles O27: SYS.INIT is accepted, the fourteen steps run through the stages of `seqRun_init`, and each clause is a
fact about the one state they end in; the invariant gives the canonical `LB` and both failure flags clear. -/
theorem powerUpSequenceEndsReady : Obligations.PowerUpSequenceEndsReady := by
  unfold Obligations.PowerUpSequenceEndsReady
  intro s hinv hlife _ hok
  obtain ⟨params, lb, fb, _, flags⟩ := broughtUp_frame (initAccepted s)
  have initFail : s.flags.initFail = false :=
    Bool.eq_false_iff.2 fun h => nomatch hlife.symm.trans (hinv.failed.2 h)
  have txFail : s.flags.txFail = false := hinv.txFailReady (by simp [hlife])
  have lbWf : (broughtUp (initAccepted s)).lb.wf = true := (congrArg Memory.wf lb).trans hinv.lbWf
  have bpr : (broughtUp (initAccepted s)).params.bpr = s.params.bpr := congrArg Params.bpr params
  refine ⟨initAccepted s, finishInit (broughtUp (initAccepted s)), exec_sysInit_of_uninit hlife hok,
    seqRun_init rfl rfl, broughtUp_out (initAccepted s), broughtUp_pins (initAccepted s), rfl, rfl,
    fun a ha => ?white, fun a => ?kept, rfl, rfl, ?status⟩
  case white => exact read_lb_finishInit lbWf (by rwa [bpr])
  case kept => exact congrArg (Memory.read · a) fb
  case status => exact statusReg_of_ready rfl rfl flags initFail txFail

end Sys2Proof.Machine

/-! SUPPORT. The decoder and the encoder are inverse to each other (30_encoding.md R70 to R76), and which opcode bytes the
decoder rejects, whatever follows them (R74). -/

namespace Sys2Proof.Machine

/-! ### Decoding an encoding -/

/-- R72: every format but that of FB.LOADIMAGE has a fixed number of operand bytes, which `u16_of_bytes` reads back; the
payload of FB.LOADIMAGE is as long as its `len` says (R76). -/
theorem decode_encode_append {i : Instr} (h : i.encodable = true) (rest : List Byte) :
    decode (encode i ++ rest) = .ok (i, rest) := by
  cases i with
  | fbLoadImage payload =>
    have bytes : encode (.fbLoadImage payload) ++ rest =
        0x25 :: (u32Bytes (BitVec.ofNat 32 payload.length) ++ (payload ++ rest)) := rfl
    rw [bytes, decode_fbLoadImage_of_len, toNat_len_of_fits h]
    simp
  | _ => simp [decode, encode, Instr.opcode, Instr.operandBytes, u16Bytes, -BitVec.ofNat_toNat]

/-- Settles O1, by the format of the command. -/
theorem decodeOfEncodeIsTheCommand : Obligations.DecodeOfEncodeIsTheCommand := by
  unfold Obligations.DecodeOfEncodeIsTheCommand
  exact fun _ rest h => decode_encode_append h rest

/-! ### Encoding what was decoded -/

/-- R76: a payload cut off after `len` bytes has the length `len`. -/
theorem ofNat_length_take {len : BitVec 32} {bytes : List Byte} (h : len.toNat ≤ bytes.length) :
    BitVec.ofNat 32 (bytes.take len.toNat).length = len := by
  simp [h]

theorem payloadFits_take (len : BitVec 32) (bytes : List Byte) : payloadFits (bytes.take len.toNat) = true :=
  decide_eq_true (Nat.lt_of_le_of_lt (List.length_take_le ..) len.isLt)

/-- One case for each command the decoder can answer; `u16Bytes_u16` and `u32Bytes_u32` give the operand bytes back. -/
theorem encode_append_of_decode {bs : List Byte} {i : Instr} {rest : List Byte} (h : decode bs = .ok (i, rest)) :
    encode i ++ rest = bs ∧ i.encodable = true := by
  unfold decode at h
  repeat' split at h
  all_goals cases h
  case isTrue.refl inside =>
    simp [encode, Instr.opcode, Instr.operandBytes, Instr.encodable, ofNat_length_take inside, payloadFits_take,
      -List.length_take]
  all_goals simp [encode, Instr.opcode, Instr.operandBytes, Instr.encodable]

/-- Settles O2, by the inversion of the decoder. -/
theorem encodeOfDecodedIsTheBytes : Obligations.EncodeOfDecodedIsTheBytes := by
  unfold Obligations.EncodeOfDecodedIsTheBytes
  exact fun _ _ _ h => encode_append_of_decode h

/-- What follows a command is left over by the decoder. -/
theorem decode_append_of_decode {bs : List Byte} {i : Instr} {rest : List Byte} (h : decode bs = .ok (i, rest))
    (more : List Byte) : decode (bs ++ more) = .ok (i, rest ++ more) := by
  obtain ⟨bytes, encodable⟩ := encode_append_of_decode h
  rw [← bytes, List.append_assoc, decode_encode_append encodable]

/-! ### Illegal opcodes (R74) -/

/-- The opcode column of R73, the reserved row `0x34` included. -/
def opcodes : List Byte :=
  [0x01, 0x10, 0x11, 0x12, 0x13, 0x14, 0x20, 0x21, 0x22, 0x23, 0x24, 0x25, 0x30, 0x31, 0x32, 0x33, 0x34]

theorem decode_of_not_mem_opcodes {op : Byte} (h : op ∉ opcodes) (rest : List Byte) :
    decode (op :: rest) = .error (.illegalOpcode op) := by
  rw [decode]
  all_goals
    rintro rfl
    simp [opcodes] at h

theorem not_mem_opcodes_of_decode {op op' : Byte} {rest : List Byte}
    (h : decode (op :: rest) = .error (.illegalOpcode op')) : op ∉ opcodes ∧ op' = op := by
  unfold decode at h
  repeat' split at h
  all_goals cases h
  simp_all [opcodes]

theorem decode_append_of_illegal {bs : List Byte} {op : Byte} (h : decode bs = .error (.illegalOpcode op))
    (more : List Byte) : decode (bs ++ more) = .error (.illegalOpcode op) := by
  cases bs with
  | nil => cases h
  | cons b rest =>
    obtain ⟨illegal, rfl⟩ := not_mem_opcodes_of_decode h
    exact decode_of_not_mem_opcodes illegal (rest ++ more)

/-! ### Prefixes -/

/-- A command read from a prefix of `encode i` would be read from all of it too, with bytes left over; an illegal opcode
would be its first byte. The decoder reads `i` there and leaves nothing (`decode_encode_append`). -/
theorem decode_take_encode {i : Instr} (h : i.encodable = true) {k : Nat} (hk : k < (encode i).length) :
    decode ((encode i).take k) = .error .incomplete := by
  have whole : decode ((encode i).take k ++ (encode i).drop k) = .ok (i, []) := by
    simpa using decode_encode_append h []
  cases hd : decode ((encode i).take k) with
  | ok r =>
    rw [decode_append_of_decode hd] at whole
    have cut : (encode i).drop k = [] := (List.append_eq_nil_iff.1 (congrArg Prod.snd (Except.ok.inj whole))).2
    exact absurd (List.drop_eq_nil_iff.1 cut) (Nat.not_le.2 hk)
  | error e =>
    cases e with
    | incomplete => rfl
    | illegalOpcode op => rw [decode_append_of_illegal hd] at whole; cases whole

/-- Settles O3. -/
theorem properPrefixesAreIncomplete : Obligations.ProperPrefixesAreIncomplete := by
  unfold Obligations.ProperPrefixesAreIncomplete
  exact fun _ _ h hk => decode_take_encode h hk

/-- Settles O4: eight words evaluated by the decoder. -/
theorem listedWordsDecodeAsTheSpecSays : Obligations.ListedWordsDecodeAsTheSpecSays := by
  unfold Obligations.ListedWordsDecodeAsTheSpecSays
  decide

end Sys2Proof.Machine

/-! SUPPORT. What the transmit commands, SYS.INIT and the reserved opcode answer (43_transmit.md R151 to R157,
45_lifecycle.md R196 to R198), and that every command has an answer. -/

namespace Sys2Proof.Machine

/-! ### Requests (43_transmit.md R152) -/

theorem wellFormedRequest_lb_iff (p : Params) (l n r : Nat) :
    wellFormedRequest p l n .lb r = true ↔ 1 ≤ l ∧ l + n ≤ p.height + 1 ∧ r = 1 ∧ n ≤ 1 := by
  simp only [wellFormedRequest, Bool.and_eq_true, decide_eq_true_eq]
  omega

theorem wellFormedRequest_fb_iff (p : Params) (l n r : Nat) :
    wellFormedRequest p l n .fb r = true ↔ 1 ≤ l ∧ l + n ≤ p.height + 1 ∧ 1 ≤ r ∧ r + n ≤ p.height + 1 := by
  simp only [wellFormedRequest, Bool.and_eq_true, decide_eq_true_eq]
  omega

/-- The rows of a well-formed request lie inside their buffer. -/
theorem request_rows_inside {p : Params} {l n : Nat} {sp : Space} {r : Nat}
    (h : wellFormedRequest p l n sp r = true) : (r - 1) * p.bpr + n * p.bpr ≤ spaceLen p sp := by
  rw [← Nat.add_mul]
  cases sp with
  | lb =>
    obtain ⟨_, _, hr, hn⟩ := (wellFormedRequest_lb_iff ..).1 h
    calc (r - 1 + n) * p.bpr ≤ 1 * p.bpr := Nat.mul_le_mul_right _ (by omega)
      _ = p.bpr := Nat.one_mul _
  | fb =>
    obtain ⟨_, _, hr, hrn⟩ := (wellFormedRequest_fb_iff ..).1 h
    calc (r - 1 + n) * p.bpr ≤ p.height * p.bpr := Nat.mul_le_mul_right _ (by omega)
      _ = p.fbLen := Nat.mul_comm ..

/-- Every offset of a buffer fits the 21 bits of `SRC_PTR`. -/
theorem spaceLen_lt {p : Params} (h : p.geometryOk = true) (sp : Space) : spaceLen p sp < 2 ^ 21 := by
  have hb := bpr_facts h
  have hf := fbLen_lt h
  cases sp <;> simp only [spaceLen_lb, spaceLen_fb] <;> omega

theorem src8_of_reserved {b : Byte} (h0 : b ≠ 0x00) (h1 : b ≠ 0x01) : src8 b = none := by
  rw [src8, if_neg h0, if_neg h1]

/-! ### Rejected requests -/

/-- The lifecycle check and the range check reject with the same effect. -/
theorem requestLines_of_not_wellFormed {s : State} {l n : Nat} {sp : Space} {r : Nat}
    (h : wellFormedRequest s.params l n sp r = false) : requestLines l n sp r s = .next (setIll s) := by
  by_cases hlife : s.life = .ready
  · simp [requestLines, hlife, h]
  · exact requestLines_of_not_ready hlife l n sp r

theorem exec_txSendLines_of_reserved {srcsel : Byte} (start count row : U16) (s : State) (h : src8 srcsel = none) :
    exec (.txSendLines start count srcsel row) s = .next (setIll s) := by
  simp [exec, execTxSendLines, h]

theorem exec_txSendLines {srcsel : Byte} {sp : Space} (start count row : U16) (s : State)
    (h : src8 srcsel = some sp) :
    exec (.txSendLines start count srcsel row) s = requestLines start.toNat count.toNat sp row.toNat s := by
  simp [exec, execTxSendLines, h]

theorem exec_txWriteLb (line : U16) (s : State) : exec (.txWriteLb line) s = requestLines line.toNat 1 .lb 1 s := rfl

/-- R155: TX.WRITELB of a line is well-formed exactly for the lines of the panel. -/
theorem wellFormedRequest_line_iff (p : Params) (l : Nat) :
    wellFormedRequest p l 1 .lb 1 = true ↔ 1 ≤ l ∧ l ≤ p.height := by
  rw [wellFormedRequest_lb_iff]
  omega

/-- R156: TX.WRITEFB asks for the whole panel. -/
theorem wellFormedRequest_panel (p : Params) : wellFormedRequest p 1 p.height .fb 1 = true :=
  (wellFormedRequest_fb_iff ..).2 (by omega)

/-- Settles O23: a reserved `srcsel` is rejected first; each other clause denies one characterisation of a well-formed
request. -/
theorem illFormedRequestsAreRejected : Obligations.IllFormedRequestsAreRejected := by
  unfold Obligations.IllFormedRequestsAreRejected
  intro s start count row
  refine ⟨fun srcsel h0 h1 => ?reserved, fun h => ?fromLb, fun h => ?fromFb, fun h => ?line⟩
  case reserved => exact exec_txSendLines_of_reserved start count row s (src8_of_reserved h0 h1)
  case fromLb =>
    rw [exec_txSendLines start count row s rfl]
    exact requestLines_of_not_wellFormed (Bool.eq_false_iff.2 fun hw => h ((wellFormedRequest_lb_iff ..).1 hw))
  case fromFb =>
    rw [exec_txSendLines start count row s rfl]
    exact requestLines_of_not_wellFormed (Bool.eq_false_iff.2 fun hw => h ((wellFormedRequest_fb_iff ..).1 hw))
  case line =>
    rw [exec_txWriteLb]
    exact requestLines_of_not_wellFormed (Bool.eq_false_iff.2 fun hw => h ((wellFormedRequest_line_iff ..).1 hw))

/-! ### Accepted requests (43_transmit.md R153) -/

theorem requestLines_of_wellFormed {s : State} {l n : Nat} {sp : Space} {r : Nat} (hlife : s.life = .ready)
    (h : wellFormedRequest s.params l n sp r = true) : requestLines l n sp r s = .next (acceptLines l n sp r s) := by
  simp [requestLines, hlife, h]

/-- The registers hold a well-formed request without truncation. With nothing to send `ADDR` need not (log 27). -/
theorem acceptLines_acceptedAs {s : State} {l n : Nat} {sp : Space} {r : Nat} (hg : s.params.geometryOk = true)
    (h : wellFormedRequest s.params l n sp r = true) : acceptedAs s (acceptLines l n sp r s) l n sp r := by
  obtain ⟨hl, hln, _⟩ := request_lines_inside h
  have height : s.params.height ≤ 255 := (geometry_facts hg).2.2.2.2
  have lines : (BitVec.ofNat 8 n).toNat = n := Nat.mod_eq_of_lt (by omega)
  have pointer : (BitVec.ofNat 21 ((r - 1) * s.params.bpr)).toNat = (r - 1) * s.params.bpr :=
    Nat.mod_eq_of_lt (by
      have := request_rows_inside h
      have := spaceLen_lt hg sp
      omega)
  refine ⟨rfl, lines, fun hn => loadAddr_toNat (by omega), pointer, ?steps⟩
  case steps =>
    calc stepsLeft (acceptLines l n sp r s) = 7 + (BitVec.ofNat 8 n).toNat * (s.params.bpr + 2) := rfl
      _ = 7 + n * (s.params.bpr + 2) := by rw [lines]

theorem requestLines_accepted {s : State} {l n : Nat} {sp : Space} {r : Nat} (hg : s.params.geometryOk = true)
    (hlife : s.life = .ready) (h : wellFormedRequest s.params l n sp r = true) :
    ∃ t, requestLines l n sp r s = .next t ∧ acceptedAs s t l n sp r :=
  ⟨_, requestLines_of_wellFormed hlife h, acceptLines_acceptedAs hg h⟩

/-- Settles O24: the three commands are one `requestLines` each, accepted by `requestLines_accepted`. -/
theorem wellFormedRequestsLoadTheSequencer : Obligations.WellFormedRequestsLoadTheSequencer := by
  unfold Obligations.WellFormedRequestsLoadTheSequencer
  intro s hg hlife
  refine ⟨fun start count row hl hln hr hn => ?fromLb, fun start count row hl hln hr hrn => ?fromFb,
    fun line hlo hhi => ?line, ?panel⟩
  case fromLb =>
    rw [exec_txSendLines start count row s rfl]
    exact requestLines_accepted hg hlife ((wellFormedRequest_lb_iff ..).2 ⟨hl, hln, hr, hn⟩)
  case fromFb =>
    rw [exec_txSendLines start count row s rfl]
    exact requestLines_accepted hg hlife ((wellFormedRequest_fb_iff ..).2 ⟨hl, hln, hr, hrn⟩)
  case line => exact requestLines_accepted hg hlife ((wellFormedRequest_line_iff ..).2 ⟨hlo, hhi⟩)
  case panel => exact requestLines_accepted hg hlife (wellFormedRequest_panel s.params)

/-! ### PANEL.CLEAR, the reserved opcode, SYS.INIT -/

theorem exec_panelClear_of_ready {s : State} (hlife : s.life = .ready) :
    exec .panelClear s = .next (goto .t1 (clearTxFail { s with kind := .clear })) := by
  simp [exec, execPanelClear, hlife]

/-- Settles O25: the accepted command is written out. -/
theorem panelClearStartsTheSequencer : Obligations.PanelClearStartsTheSequencer := by
  unfold Obligations.PanelClearStartsTheSequencer
  exact fun s hlife => exec_panelClear_of_ready hlife

/-- Settles O21: the meaning of the reserved opcode is the rejection itself. -/
theorem reservedNopSetsOnlyIll : Obligations.ReservedNopSetsOnlyIll := by
  unfold Obligations.ReservedNopSetsOnlyIll
  exact fun _ => rfl

theorem exec_sysInit_of_not_uninit {s : State} (hlife : s.life ≠ .uninit) : exec .sysInit s = .next (setIll s) :=
  if_pos (bne_iff_ne.2 hlife)

/-- R198: the peripheral check fails. -/
theorem exec_sysInit_of_failure {s : State} (hlife : s.life = .uninit) (hfail : s.env.periphAnswer = false) :
    exec .sysInit s = .next (setInitFail { s with life := .failed, env := s.env.afterPeriph }) := by
  simp [exec, execSysInit, beginInit, hlife, hfail]

/-- Settles O26: one lemma for each of the three answers. -/
theorem sysInitIsAcceptedOnce : Obligations.SysInitIsAcceptedOnce := by
  unfold Obligations.SysInitIsAcceptedOnce
  exact fun s => ⟨exec_sysInit_of_not_uninit, exec_sysInit_of_failure, exec_sysInit_of_uninit⟩

/-! ### Every command has an answer (60_exceptions.md R219, 20_memory.md R56) -/

theorem requestLines_total (l n : Nat) (sp : Space) (r : Nat) (s : State) :
    ∃ t, requestLines l n sp r s = .next t := by
  unfold requestLines
  split
  · exact ⟨_, rfl⟩
  · split <;> exact ⟨_, rfl⟩

/-- The range checks keep every access inside its buffer: one lemma for each branch of a buffer command. -/
theorem exec_total {s : State} (hg : s.params.geometryOk = true) (i : Instr) : ∃ t, exec i s = .next t := by
  cases i with
  | sysInit =>
    by_cases hlife : s.life = .uninit
    · exact ⟨_, if_neg (by simp [hlife])⟩
    · exact ⟨_, exec_sysInit_of_not_uninit hlife⟩
  | lbSetPixel col white =>
    cases hw : bool8 white with
    | none => exact ⟨_, exec_lbSetPixel_of_reserved col s hw⟩
    | some w =>
      cases hc : inRange col s.params.width with
      | false => exact ⟨_, exec_lbSetPixel_of_out_of_range hw hc⟩
      | true => exact ⟨_, exec_lbSetPixel_of_in_range hg hw hc⟩
  | lbSetByte idx value =>
    cases hi : inRange idx s.params.bpr with
    | false => exact ⟨_, exec_lbSetByte_of_out_of_range value hi⟩
    | true => exact ⟨_, exec_lbSetByte_of_in_range value hi⟩
  | lbCopyByte src dst =>
    cases hs : inRange src s.params.bpr with
    | false => exact ⟨_, exec_lbCopyByte_of_out_of_range (.inl hs)⟩
    | true =>
      cases hd : inRange dst s.params.bpr with
      | false => exact ⟨_, exec_lbCopyByte_of_out_of_range (.inr hd)⟩
      | true => exact ⟨_, exec_lbCopyByte_of_in_range hs hd⟩
  | lbFillBlack => exact ⟨_, rfl⟩
  | lbFillWhite => exact ⟨_, rfl⟩
  | fbSetPixel col line white =>
    cases hw : bool8 white with
    | none => exact ⟨_, exec_fbSetPixel_of_reserved col line s hw⟩
    | some w =>
      cases hc : inRange col s.params.width with
      | false => exact ⟨_, exec_fbSetPixel_of_out_of_range hw (.inl hc)⟩
      | true =>
        cases hl : inRange line s.params.height with
        | false => exact ⟨_, exec_fbSetPixel_of_out_of_range hw (.inr hl)⟩
        | true => exact ⟨_, exec_fbSetPixel_of_in_range hg hw hc hl⟩
  | fbSetByte idx line value =>
    cases hi : inRange idx s.params.bpr with
    | false => exact ⟨_, exec_fbSetByte_of_out_of_range value (.inl hi)⟩
    | true =>
      cases hl : inRange line s.params.height with
      | false => exact ⟨_, exec_fbSetByte_of_out_of_range value (.inr hl)⟩
      | true => exact ⟨_, exec_fbSetByte_of_in_range value hi hl⟩
  | fbCopyByte sidx sline didx dline =>
    by_cases hin : (inRange sidx s.params.bpr = true ∧ inRange sline s.params.height = true) ∧
        inRange didx s.params.bpr = true ∧ inRange dline s.params.height = true
    · obtain ⟨⟨hsi, hsl⟩, hdi, hdl⟩ := hin
      exact ⟨_, exec_fbCopyByte_of_in_range hsi hsl hdi hdl⟩
    · refine ⟨_, exec_fbCopyByte_of_out_of_range ?_⟩
      simpa only [not_and_or, Bool.not_eq_true, or_assoc] using hin
  | fbFillBlack => exact ⟨_, rfl⟩
  | fbFillWhite => exact ⟨_, rfl⟩
  | fbLoadImage payload =>
    by_cases hlen : payload.length = s.params.fbLen
    · exact ⟨_, exec_fbLoadImage_of_length_eq hlen⟩
    · exact ⟨_, exec_fbLoadImage_of_length_ne hlen⟩
  | txSendLines start count srcsel row =>
    cases hsrc : src8 srcsel with
    | none => exact ⟨_, exec_txSendLines_of_reserved start count row s hsrc⟩
    | some sp =>
      rw [exec_txSendLines start count row s hsrc]
      exact requestLines_total ..
  | txWriteLb line => exact requestLines_total ..
  | txWriteFb => exact requestLines_total ..
  | panelClear =>
    by_cases hlife : s.life = .ready
    · exact ⟨_, exec_panelClear_of_ready hlife⟩
    · exact ⟨_, exec_panelClear_of_not_ready hlife⟩
  | panelNop => exact ⟨_, rfl⟩

end Sys2Proof.Machine

/-! SUPPORT. The step at each turn, forwards (00_scope.md R14): the sequencer while the block is busy, the command port while it
is idle (10_state.md R28, R29), a host read (R26). -/

namespace Sys2Proof.Machine

/-! ### The turns -/

theorem step_of_main_turn {s : State} (hg : s.params.geometryOk = true) (ht : nextTurn s = .main) :
    step s = mainMove (afterTurn s) := by
  simp [step, hg, ht]

theorem step_of_timer_turn {s : State} (hg : s.params.geometryOk = true) (ht : nextTurn s = .timer) :
    step s = .next (timerMove (afterTurn s)) := by
  simp [step, hg, ht]

theorem step_of_read_turn {s : State} {n : Nat} (hg : s.params.geometryOk = true) (ht : nextTurn s = .read n) :
    step s = .next (hostRead n (afterTurn s)) := by
  simp [step, hg, ht]

/-! ### The turn of the main timeline -/

theorem busy_of_idle {s : State} (h : s.phase = .idle) : busy s = false := by simp [busy, h]

theorem busy_iff (s : State) : busy s = true ↔ s.phase ≠ .idle := by simp [busy]

theorem not_busy_iff (s : State) : busy s = false ↔ s.phase = .idle := by simp [busy]

theorem mainMove_of_delay {s : State} (h : delayRunning s = true) : mainMove s = .next s := by
  simp [mainMove, mainSelect, h]

theorem mainMove_of_busy {s : State} (hd : delayRunning s = false) (hb : busy s = true) : mainMove s = seqStep s := by
  simp [mainMove, mainSelect, hd, hb]

section
variable {s : State} (hd : delayRunning s = false) (hp : s.phase = .idle)
include hd hp

theorem mainMove_of_waits {t : State} (h : portStep s = .waits t) : mainMove s = .next t := by
  simp [mainMove, mainSelect, hd, busy_of_idle hp, h]

theorem mainMove_of_takes {t : State} (h : portStep s = .takes t) : mainMove s = .next t := by
  simp [mainMove, mainSelect, hd, busy_of_idle hp, h]

theorem mainMove_of_rejects {t : State} (h : portStep s = .rejects t) : mainMove s = .next t := by
  simp [mainMove, mainSelect, hd, busy_of_idle hp, h]

theorem mainMove_of_runs {i : Instr} {t : State} (h : portStep s = .runs i t) : mainMove s = exec i t := by
  simp [mainMove, mainSelect, hd, busy_of_idle hp, h]

end

/-- Settles O5: the port hands the command to `exec` with its last byte. -/
theorem stepRunsTheDecodedCommand : Obligations.StepRunsTheDecodedCommand := by
  unfold Obligations.StepRunsTheDecodedCommand
  intro s b rest i hg ht hd hp hq hdec
  rw [step_of_main_turn hg ht]
  exact mainMove_of_runs (s := afterTurn s) hd hp (portStep_runs (s := afterTurn s) hq hdec)

/-- Settles O6. -/
theorem stepRunsTheSequencer : Obligations.StepRunsTheSequencer := by
  unfold Obligations.StepRunsTheSequencer
  intro s hg ht hb hd
  rw [step_of_main_turn hg ht]
  exact mainMove_of_busy hd hb

/-- Settles O7: with no byte the port waits, with an incomplete command it takes the byte. -/
theorem stepKeepsAnIncompleteCommand : Obligations.StepKeepsAnIncompleteCommand := by
  unfold Obligations.StepKeepsAnIncompleteCommand
  intro s hg ht hd hp
  rw [step_of_main_turn hg ht]
  exact ⟨fun hq => mainMove_of_waits (s := afterTurn s) hd hp (portStep_waits hq),
    fun b rest hq hdec => mainMove_of_takes (s := afterTurn s) hd hp (portStep_takes hq hdec)⟩

/-- Settles O8: `0x34` is decoded to the command of the reserved row, whose meaning is the rejection; any other byte
is rejected by the port. -/
theorem illegalOpcodeBytesAreRejected : Obligations.IllegalOpcodeBytesAreRejected := by
  unfold Obligations.IllegalOpcodeBytesAreRejected
  intro s b rest hg ht hd hp hq hc hb
  rw [step_of_main_turn hg ht]
  have alone : (afterTurn s).cbuf ++ [b] = [b] := by simp [hc]
  by_cases reserved : b = 0x34
  · subst reserved
    have dec : decode ((afterTurn s).cbuf ++ [0x34]) = .ok (.panelNop, []) := by rw [alone]; rfl
    rw [mainMove_of_runs (s := afterTurn s) hd hp (portStep_runs hq dec)]
    simp [exec, execPanelNop, setIll, afterTurn, hc]
  · have illegal : b ∉ opcodes := fun h => (List.mem_append.1 h).elim hb (by simpa using reserved)
    have dec : decode ((afterTurn s).cbuf ++ [b]) = .error (.illegalOpcode b) := by
      rw [alone, decode_of_not_mem_opcodes illegal]
    rw [mainMove_of_rejects (s := afterTurn s) hd hp (portStep_rejects hq dec)]
    simp [setIll, afterTurn, hc]

/-! ### Registers -/

theorem busy_eq_decide (s : State) : busy s = decide (s.phase ≠ .idle) := by
  simp [busy, bne, beq_eq_decide]

theorem ready_eq_decide (s : State) : ready s = decide (s.life = .ready) := beq_eq_decide ..

/-- R27, of any seven bits. -/
theorem statusBits : ∀ ill drop imgErr txFail initFail ready busy : Bool,
    let r : BitVec 8 := 0#1 ++ BitVec.ofBool ill ++ BitVec.ofBool drop ++ BitVec.ofBool imgErr
      ++ BitVec.ofBool txFail ++ BitVec.ofBool initFail ++ BitVec.ofBool ready ++ BitVec.ofBool busy
    r.getLsbD 0 = busy ∧ r.getLsbD 1 = ready ∧ r.getLsbD 2 = initFail ∧ r.getLsbD 3 = txFail ∧
      r.getLsbD 4 = imgErr ∧ r.getLsbD 5 = drop ∧ r.getLsbD 6 = ill ∧ r.getLsbD 7 = false := by
  decide

/-- Settles O42: each bit is one operand of the concatenation. -/
theorem statusBitsAreTheFields : Obligations.StatusBitsAreTheFields := by
  unfold Obligations.StatusBitsAreTheFields
  intro s
  rw [← busy_eq_decide, ← ready_eq_decide]
  exact statusBits s.flags.ill s.flags.drop s.flags.imgErr s.flags.txFail s.flags.initFail (ready s) (busy s)

/-- Settles O43: `WIDTH` and `HEIGHT` of a legal geometry fit the 16 bits of a read. -/
theorem hostReadsReturnTheRegisters : Obligations.HostReadsReturnTheRegisters := by
  unfold Obligations.HostReadsReturnTheRegisters
  intro s n hg ht
  obtain ⟨_, _, width, _, height⟩ := geometry_facts hg
  refine ⟨readReg n (afterTurn s), step_of_read_turn hg ht, ?status, ?width, ?height⟩
  case status =>
    rintro rfl
    exact BitVec.toNat_setWidth_of_le (by decide)
  case width =>
    rintro rfl
    exact Nat.mod_eq_of_lt (show s.params.width < 2 ^ 16 by omega)
  case height =>
    rintro rfl
    exact Nat.mod_eq_of_lt (show s.params.height < 2 ^ 16 by omega)

end Sys2Proof.Machine

/-! SUPPORT. Everything a step of the sequencer can do: the inversion lemma of `seqStep`, and its converse. -/

namespace Sys2Proof.Machine

/-! ### The sequencer's steps (43_transmit.md R153, R158; 45_lifecycle.md R196) -/

/-- The steps of the power-up sequence that emit an event: all but I3 and I10. -/
def initMove (p : Params) : Phase → Option (Event × Phase)
  | .i1a => some (.cfgOut .sel, .i1b)
  | .i1b => some (.cfgOut .disp, .i1c)
  | .i1c => some (.cfgOut .pol, .i2)
  | .i2 => some (.delay p.tPwr, .i3)
  | .i4 => some (.busCfg p.busClock p.busOrder p.busMode, .i5a)
  | .i5a => some (.pin .sel .low, .i5b)
  | .i5b => some (.pin .disp .low, .i5c)
  | .i5c => some (.pin .pol .low, .i6)
  | .i6 => some (.pin .disp .high, .i7)
  | .i7 => some (.delay p.tDisp1, .i8)
  | .i8 => some (.pin .pol .low, .i9)
  | .i9 => some (.delay p.tDisp2, .i10)
  | .i3 | .i10 | .idle | .t1 | .t2 | .t3 | .t4a | .t4d | .t4t | .t5 | .t6 | .t7 | .t8 => none

/-- Everything a step of the sequencer can do. Both transactions share the steps of the envelope. -/
inductive SeqEffect (s : State) : State → Prop where
  | select (hk : s.kind ≠ .init) (hp : s.phase = .t1) :
      SeqEffect s (goto .t2 (deferDue (emit (.pin .sel .high) s)))
  | settle (hk : s.kind ≠ .init) (hp : s.phase = .t2) : SeqEffect s (goto .t3 (emit (.delay s.params.tSetup) s))
  | modeWrite (hk : s.kind = .write) (hp : s.phase = .t3) :
      SeqEffect s (goto (nextGroup s.linesLeft) (tx s.params.modeWrite s))
  | modeClear (hk : s.kind = .clear) (hp : s.phase = .t3) : SeqEffect s (goto .t5 (tx s.params.modeClear s))
  | address (hk : s.kind = .write) (hp : s.phase = .t4a) :
      SeqEffect s (goto .t4d { tx (rev8 s.addr) s with byteIdx := 0 })
  | data (hk : s.kind = .write) (hp : s.phase = .t4d) (inside : dataOffset s < spaceLen s.params s.srcSpace)
      (more : s.byteIdx.toNat ≠ s.params.bpr - 1) :
      SeqEffect s { tx ((s.mem s.srcSpace).read (dataOffset s)) s with byteIdx := s.byteIdx + 1 }
  | lastData (hk : s.kind = .write) (hp : s.phase = .t4d) (inside : dataOffset s < spaceLen s.params s.srcSpace)
      (last : s.byteIdx.toNat = s.params.bpr - 1) :
      SeqEffect s (goto .t4t (tx ((s.mem s.srcSpace).read (dataOffset s)) s))
  | trailer (hk : s.kind = .write) (hp : s.phase = .t4t) : SeqEffect s (endGroup (tx pad s))
  | frameEnd (hk : s.kind ≠ .init) (hp : s.phase = .t5) : SeqEffect s (goto .t6 (tx pad s))
  | hold (hk : s.kind ≠ .init) (hp : s.phase = .t6) : SeqEffect s (goto .t7 (emit (.delay s.params.tHold) s))
  | deselect (hk : s.kind ≠ .init) (hp : s.phase = .t7) : SeqEffect s (goto .t8 (emit (.pin .sel .low) s))
  | close (hk : s.kind ≠ .init) (hp : s.phase = .t8) : SeqEffect s (goto .idle (emit (.delay s.params.tIframe) s))
  | powerUp (hk : s.kind = .init) (e : Event) (q : Phase) (hm : initMove s.params s.phase = some (e, q)) :
      SeqEffect s (goto q (emit e s))
  | started (hk : s.kind = .init) (hp : s.phase = .i3) : SeqEffect s (goto .i4 (startTimer s))
  | finished (hk : s.kind = .init) (hp : s.phase = .i10) : SeqEffect s (finishInit s)

theorem afterData_last {s : State} (h : s.byteIdx.toNat = s.params.bpr - 1) : afterData s = goto .t4t s := if_pos h

theorem afterData_more {s : State} (h : s.byteIdx.toNat ≠ s.params.bpr - 1) :
    afterData s = { s with byteIdx := s.byteIdx + 1 } := if_neg h

theorem writeStep_next {s t : State} (hk : s.kind = .write) (h : writeStep s = .next t) : SeqEffect s t := by
  have hi : s.kind ≠ .init := by simp [hk]
  unfold writeStep at h
  split at h
  case h_5 hp =>
    obtain ⟨inside, h⟩ := memRead_next h
    cases h
    by_cases last : s.byteIdx.toNat = s.params.bpr - 1
    · rw [afterData_last (s := tx _ s) last]
      exact .lastData hk hp inside last
    · rw [afterData_more (s := tx _ s) last]
      exact .data hk hp inside last
  all_goals cases h
  case h_1.refl hp => exact .select hi hp
  case h_2.refl hp => exact .settle hi hp
  case h_3.refl hp => exact .modeWrite hk hp
  case h_4.refl hp => exact .address hk hp
  case h_6.refl hp => exact .trailer hk hp
  case h_7.refl hp => exact .frameEnd hi hp
  case h_8.refl hp => exact .hold hi hp
  case h_9.refl hp => exact .deselect hi hp
  case h_10.refl hp => exact .close hi hp

theorem clearStep_next {s t : State} (hk : s.kind = .clear) (h : clearStep s = .next t) : SeqEffect s t := by
  have hi : s.kind ≠ .init := by simp [hk]
  unfold clearStep at h
  split at h
  all_goals cases h
  case h_1.refl hp => exact .select hi hp
  case h_2.refl hp => exact .settle hi hp
  case h_3.refl hp => exact .modeClear hk hp
  case h_4.refl hp => exact .frameEnd hi hp
  case h_5.refl hp => exact .hold hi hp
  case h_6.refl hp => exact .deselect hi hp
  case h_7.refl hp => exact .close hi hp

theorem initStep_next {s t : State} (hk : s.kind = .init) (h : initStep s = .next t) : SeqEffect s t := by
  unfold initStep at h
  split at h
  all_goals cases h
  case h_5.refl hp => exact .started hk hp
  case h_14.refl hp => exact .finished hk hp
  all_goals exact .powerUp hk _ _ (by simp only [*, initMove])

/-- The inversion lemma of `seqStep`. -/
theorem seqStep_next {s t : State} (h : seqStep s = .next t) : SeqEffect s t := by
  unfold seqStep at h
  split at h
  case h_1 hk => exact writeStep_next hk h
  case h_2 hk => exact clearStep_next hk h
  case h_3 hk => exact initStep_next hk h

theorem kind_of_ne_init {s : State} (h : s.kind ≠ .init) : s.kind = .write ∨ s.kind = .clear := by
  cases hk : s.kind <;> simp_all

/-- A step shared by the two transactions. -/
theorem seqStep_of_transmit {s : State} {r : Result} (hk : s.kind ≠ .init) (hw : writeStep s = r)
    (hc : clearStep s = r) : seqStep s = r := by
  rcases kind_of_ne_init hk with hk | hk
  · rw [seqStep, hk]; exact hw
  · rw [seqStep, hk]; exact hc

/-- Each of these is what the sequencer does. -/
theorem SeqEffect.step {s t : State} (h : SeqEffect s t) : seqStep s = .next t := by
  cases h with
  | data hk hp inside more =>
    simp only [seqStep, hk, writeStep, hp, memRead_inside inside]
    rw [afterData_more (s := tx _ s) more]
    rfl
  | lastData hk hp inside last =>
    simp only [seqStep, hk, writeStep, hp, memRead_inside inside]
    rw [afterData_last (s := tx _ s) last]
  | modeWrite hk hp => simp [seqStep, hk, writeStep, hp]
  | modeClear hk hp => simp [seqStep, hk, clearStep, hp]
  | address hk hp => simp [seqStep, hk, writeStep, hp]
  | trailer hk hp => simp [seqStep, hk, writeStep, hp]
  | powerUp hk e q hm =>
    unfold initMove at hm
    rw [seqStep, hk]
    split at hm
    all_goals cases hm
    all_goals simp [initStep, *]
  | started hk hp => simp [seqStep, hk, initStep, hp, startTimer]
  | finished hk hp => simp [seqStep, hk, initStep, hp, finishInit]
  | select hk hp => exact seqStep_of_transmit hk (by simp [writeStep, hp]) (by simp [clearStep, hp])
  | settle hk hp => exact seqStep_of_transmit hk (by simp [writeStep, hp]) (by simp [clearStep, hp])
  | frameEnd hk hp => exact seqStep_of_transmit hk (by simp [writeStep, hp]) (by simp [clearStep, hp])
  | hold hk hp => exact seqStep_of_transmit hk (by simp [writeStep, hp]) (by simp [clearStep, hp])
  | deselect hk hp => exact seqStep_of_transmit hk (by simp [writeStep, hp]) (by simp [clearStep, hp])
  | close hk hp => exact seqStep_of_transmit hk (by simp [writeStep, hp]) (by simp [clearStep, hp])

end Sys2Proof.Machine

/-! SUPPORT. What the sequencer leaves unchanged (43_transmit.md R150, R159, R185), and what it draws from the outside
(60_exceptions.md R214). -/

namespace Sys2Proof.Machine

/-! ### The sequencer -/

@[simp] theorem endGroup_out (s : State) : (endGroup s).out = s.out := rfl
@[simp] theorem endGroup_phase (s : State) : (endGroup s).phase = nextGroup (s.linesLeft - 1) := rfl

/-- What no step of a sequence changes; of the flags only `TX_FAIL` (60_exceptions.md R214). -/
structure SeqFrame (s t : State) : Prop where
  params   : t.params = s.params
  fb       : t.fb = s.fb
  kind     : t.kind = s.kind
  srcSpace : t.srcSpace = s.srcSpace
  cbuf     : t.cbuf = s.cbuf
  cmdIn    : t.env.cmdIn = s.env.cmdIn
  turns    : t.env.turns = s.env.turns
  flags    : t.flags = { s.flags with txFail := t.flags.txFail }

theorem SeqEffect.frame {s t : State} (h : SeqEffect s t) : SeqFrame s t := by
  cases h with
  | powerUp hk e q hm =>
    exact ⟨emit_params e s, emit_fb e s, emit_kind e s, emit_srcSpace e s, emit_cbuf e s,
      congrArg Outside.cmdIn (emit_env e s), congrArg Outside.turns (emit_env e s), by simp⟩
  | _ => exact ⟨rfl, rfl, rfl, rfl, rfl, rfl, rfl, rfl⟩

/-- What no step of a transaction changes: `LB`, `LIFE`, the polarity timer, and every pin but the level of select. -/
structure TransmitFrame (s t : State) : Prop where
  lb        : t.lb = s.lb
  life      : t.life = s.life
  polState  : t.polState = s.polState
  polRun    : t.polRun = s.polRun
  polCnt    : t.polCnt = s.polCnt
  selCfg    : t.pins.sel.cfg = s.pins.sel.cfg
  disp      : t.pins.disp = s.pins.disp
  pol       : t.pins.pol = s.pins.pol
  polWrites : polWrites t.out = polWrites s.out

theorem SeqEffect.transmit {s t : State} (h : SeqEffect s t) (hk : s.kind ≠ .init) : TransmitFrame s t := by
  cases h with
  | powerUp hi | started hi | finished hi => exact absurd hi hk
  | _ => exact ⟨rfl, rfl, rfl, rfl, rfl, rfl, rfl, rfl, by simp [polWrites, Event.isPol]⟩

/-- The two states differ in the outside and in `TX_FAIL` only (R159). -/
def SameButAnswers (t t' : State) : Prop :=
  t' = { t with env := t'.env, flags := { t.flags with txFail := t'.flags.txFail } }

/-- Settles O32: the same step from any other outside, with `TX_FAIL` and the answers left open. -/
theorem answersNeverChangeTheSequence : Obligations.AnswersNeverChangeTheSequence := by
  unfold Obligations.AnswersNeverChangeTheSequence
  intro s t o h
  have other {t' : State} (e : SeqEffect { s with env := o } t') (same : SameButAnswers t t') :
      ∃ t', seqStep { s with env := o } = .next t' ∧ SameButAnswers t t' := ⟨t', e.step, same⟩
  cases seqStep_next h with
  | select hk hp => exact other (.select hk hp) rfl
  | settle hk hp => exact other (.settle hk hp) rfl
  | modeWrite hk hp => exact other (.modeWrite hk hp) rfl
  | modeClear hk hp => exact other (.modeClear hk hp) rfl
  | address hk hp => exact other (.address hk hp) rfl
  | data hk hp inside more => exact other (.data hk hp inside more) rfl
  | lastData hk hp inside last => exact other (.lastData hk hp inside last) rfl
  | trailer hk hp => exact other (.trailer hk hp) rfl
  | frameEnd hk hp => exact other (.frameEnd hk hp) rfl
  | hold hk hp => exact other (.hold hk hp) rfl
  | deselect hk hp => exact other (.deselect hk hp) rfl
  | close hk hp => exact other (.close hk hp) rfl
  | powerUp hk e q hm =>
    exact other (.powerUp (s := { s with env := o }) hk e q hm) (by cases e <;> rfl)
  | started hk hp => exact other (.started hk hp) rfl
  | finished hk hp => exact other (.finished hk hp) rfl

/-- The power-up sequence sends nothing. -/
theorem initMove_ne_tx {p : Params} {ph q : Phase} {e : Event} (h : initMove p ph = some (e, q)) (b : Byte) :
    e ≠ .tx b := by
  unfold initMove at h
  split at h
  all_goals cases h
  all_goals exact Event.noConfusion

/-- What R214 says of one step. -/
def AnswersOneByte (s t : State) : Prop :=
  (∀ b, t.out = s.out ++ [.tx b] →
    t.flags = { s.flags with txFail := s.flags.txFail || !s.env.txAnswer } ∧ t.env = s.env.afterTx) ∧
  ((∀ b, t.out ≠ s.out ++ [.tx b]) → t.flags = s.flags ∧ t.env = s.env)

theorem answersOneByte_of_tx {s t : State} {b : Byte} (ho : t.out = s.out ++ [.tx b])
    (hf : t.flags = { s.flags with txFail := s.flags.txFail || !s.env.txAnswer }) (he : t.env = s.env.afterTx) :
    AnswersOneByte s t :=
  ⟨fun _ _ => ⟨hf, he⟩, fun h => absurd ho (h b)⟩

theorem answersOneByte_of_silent {s t : State} (ho : ∀ b, t.out ≠ s.out ++ [.tx b]) (hf : t.flags = s.flags)
    (he : t.env = s.env) : AnswersOneByte s t :=
  ⟨fun b h => absurd h (ho b), fun _ => ⟨hf, he⟩⟩

theorem SeqEffect.answers {s t : State} (h : SeqEffect s t) : AnswersOneByte s t := by
  cases h with
  | modeWrite | modeClear | address | data | lastData | trailer | frameEnd =>
    exact answersOneByte_of_tx rfl rfl rfl
  | powerUp hk e q hm =>
    exact answersOneByte_of_silent (fun b => by simpa using initMove_ne_tx hm b) (emit_flags e s) (emit_env e s)
  | started | finished => exact answersOneByte_of_silent (fun b => by simp [startTimer, finishInit, fillSpace]) rfl rfl
  | _ => exact answersOneByte_of_silent (fun b => by simp) rfl rfl

/-- Settles O33: one answer is drawn at each of the seven positions that send a byte, and none at the others. -/
theorem failedBytesSetTxFail : Obligations.FailedBytesSetTxFail := by
  unfold Obligations.FailedBytesSetTxFail
  exact fun _ _ h => (seqStep_next h).answers

/-- R227, first half: a delay of the sequencer loads the wait. -/
theorem SeqEffect.waitLeft_of_delay {s t : State} (h : SeqEffect s t) (hf : s.params.form = .timed) {d : Nat}
    (ho : t.out = s.out ++ [.delay d]) : t.waitLeft = d := by
  cases h with
  | settle | hold | close =>
    obtain rfl : _ = d := by simpa using ho
    exact emit_delay_waitLeft_timed _ s hf
  | powerUp hk e q hm =>
    obtain rfl : e = .delay d := by simpa using ho
    exact emit_delay_waitLeft_timed d s hf
  | started | finished => simp [startTimer, finishInit, fillSpace] at ho
  | _ => simp at ho

/-- Settles O41: two of the steps of `SeqEffect.powerUp` write the pin; `startTimer` is the one update of the timer, and
`deferDue` the one of the pending toggle. -/
theorem sequencerLeavesTheTimerState : Obligations.SequencerLeavesTheTimerState := by
  unfold Obligations.SequencerLeavesTheTimerState
  intro s t h
  cases seqStep_next h with
  | powerUp hk e q hm =>
    refine ⟨fun _ hp => ?write, by simp, by simp, absurd hk, fun _ hp => ?never⟩
    case write => rcases hp with hp | hp <;> (rw [hp] at hm; cases hm; exact ⟨rfl, rfl⟩)
    case never => rw [hp] at hm; cases hm
  | started hk hp => simp [hk, hp, startTimer]
  | finished hk hp => simp [hk, hp, finishInit, fillSpace]
  | select hk hp =>
    refine ⟨fun hi => absurd hi hk, fun _ => ⟨rfl, rfl, rfl⟩, by simp [hk, hp], fun _ _ => ?pending,
      fun hi => absurd hi hk⟩
    simp only [goto_polPend, deferDue_polPend, emit_polPend, emit_params, halfPeriodOver, emit_polRun, emit_polCnt,
      Bool.or_eq_true, Bool.and_eq_true, beq_iff_eq]
    tauto
  | _ => simp_all [endGroup]

end Sys2Proof.Machine

/-! SUPPORT. The polarity timer in both forms (44_polarity_timer.md R183, R184), forwards, and what its turn leaves unchanged
(R187); what a command leaves unchanged; the inversion of `step` away from hardware reset. -/

namespace Sys2Proof.Machine

/-! ### The timer, forwards -/

theorem flip_eq (v : Level) : v.flip = if v = .low then .high else .low := by cases v <;> rfl

theorem polEnabled_iff (s : State) :
    polEnabled s = true ↔ s.polRun = true ∧ (s.params.polArb = .free ∨ lockOf s = .free) := by
  simp [polEnabled]

theorem halfPeriodOver_iff (s : State) :
    halfPeriodOver s = true ↔
      s.params.form = .timed ∧ s.polRun = true ∧ (s.polPend = true ∨ s.polCnt = 0) := by
  simp [halfPeriodOver, and_assoc]

theorem polDueNow_iff (s : State) : polDueNow s = true ↔ halfPeriodOver s = true ∧ polEnabled s = true := by
  simp [polDueNow]

theorem polToggle_untimed {s : State} (hf : s.params.form = .untimed) :
    polToggle s = emit (.pin .pol s.polState.flip) { s with polState := s.polState.flip } := by
  simp [polToggle, hf]

theorem polToggle_timed {s : State} (hf : s.params.form = .timed) :
    polToggle s = { emit (.pin .pol s.polState.flip) { s with polState := s.polState.flip } with
      polPend := false, polCnt := s.params.tPol } := by
  simp [polToggle, hf]

@[simp] theorem polToggle_out (s : State) : (polToggle s).out = s.out ++ [.pin .pol s.polState.flip] := by
  unfold polToggle
  split <;> rfl

@[simp] theorem polToggle_polState (s : State) : (polToggle s).polState = s.polState.flip := by
  unfold polToggle
  split <;> rfl

@[simp] theorem polToggle_pins (s : State) :
    (polToggle s).pins = { s.pins with pol := { s.pins.pol with level := some s.polState.flip } } := by
  unfold polToggle
  split <;> rfl

@[simp] theorem polToggle_waitLeft (s : State) : (polToggle s).waitLeft = s.waitLeft := by
  unfold polToggle
  split <;> rfl

@[simp] theorem polToggle_phase (s : State) : (polToggle s).phase = s.phase := by
  unfold polToggle
  split <;> rfl

/-- A timer that is stopped, or whose toggle is pending, only lets time pass. -/
theorem elapse_of_not_counting {s : State} (h : s.polRun = false ∨ s.polPend = true) :
    elapse s = { s with waitLeft := s.waitLeft - 1 } := by
  have stopped : (!s.polRun || s.polPend) = true := by simpa using h
  simp [elapse, stopped]

theorem elapse_of_counting {s : State} (hr : s.polRun = true) (hp : s.polPend = false) :
    elapse s = { s with
      waitLeft := s.waitLeft - 1, polCnt := s.polCnt - 1, polPend := decide (s.polCnt ≤ 1) && !polEnabled s } := by
  simp [elapse, hr, hp]

@[simp] theorem elapse_waitLeft (s : State) : (elapse s).waitLeft = s.waitLeft - 1 := by
  unfold elapse
  dsimp only
  split <;> rfl

theorem timerMove_untimed {s : State} (hf : s.params.form = .untimed) :
    timerMove s = if polEnabled s then polToggle s else s := by
  simp [timerMove, hf]

theorem timerMove_of_due {s : State} (h : polDueNow s = true) : timerMove s = polToggle s := by
  have hf := ((halfPeriodOver_iff s).1 ((polDueNow_iff s).1 h).1).1
  simp [timerMove, hf, h]

theorem timerMove_of_not_due {s : State} (hf : s.params.form = .timed) (h : polDueNow s = false) :
    timerMove s = elapse s := by
  simp [timerMove, hf, h]

/-- Settles O34: the two branches of `timerMove_untimed`. -/
theorem timerStepTogglesThePin : Obligations.TimerStepTogglesThePin := by
  unfold Obligations.TimerStepTogglesThePin
  intro s hg hf ht
  rw [step_of_timer_turn hg ht, timerMove_untimed (s := afterTurn s) hf]
  refine ⟨fun hr hfree => ?toggles, fun hno => ?passes⟩
  case toggles =>
    rw [if_pos ((polEnabled_iff (afterTurn s)).2 ⟨hr, hfree⟩), polToggle_untimed (s := afterTurn s) hf, flip_eq]
    rfl
  case passes => rw [if_neg fun he => hno ((polEnabled_iff (afterTurn s)).1 he), afterTurn]

/-- A toggle is not due where it is not enabled, or where the half-period still runs. -/
theorem not_due_of_not_enabled {s : State} (h : polEnabled s = false) : polDueNow s = false := by
  simp [polDueNow, h]

theorem not_due_of_counting {s : State} (hp : s.polPend = false) (hc : s.polCnt ≠ 0) : polDueNow s = false := by
  simp [polDueNow, halfPeriodOver, hp, hc]

theorem not_due_of_stopped {s : State} (h : s.polRun = false) : polDueNow s = false := by
  simp [polDueNow, halfPeriodOver, h]

/-- Settles O35: five clauses let time pass, with the timer counting or not; the last is the toggle. -/
theorem timedTimerCountsAndDefers : Obligations.TimedTimerCountsAndDefers := by
  unfold Obligations.TimedTimerCountsAndDefers
  intro s hg hf ht
  rw [step_of_timer_turn hg ht]
  refine ⟨fun hr => ?stopped, fun hr hp hc => ?counts, fun hr hp hc he => ?fallsDue, fun hr hp hc he => ?defers,
    fun hr hp he => ?waits, fun hr hover he => ?toggles⟩
  case stopped =>
    rw [timerMove_of_not_due (s := afterTurn s) hf (not_due_of_stopped hr),
      elapse_of_not_counting (s := afterTurn s) (.inl hr)]
    rfl
  case counts =>
    have notYet : ¬ s.polCnt ≤ 1 := by omega
    rw [timerMove_of_not_due (s := afterTurn s) hf (not_due_of_counting hp (by simp; omega)),
      elapse_of_counting (s := afterTurn s) hr hp]
    simp [afterTurn, notYet, hp]
  case fallsDue =>
    rw [timerMove_of_not_due (s := afterTurn s) hf (not_due_of_counting hp (by simp; omega)),
      elapse_of_counting (s := afterTurn s) hr hp, show polEnabled (afterTurn s) = true from he]
    simp [afterTurn, hc, hp]
  case defers =>
    have zero : s.polCnt - 1 = 0 := by omega
    rw [timerMove_of_not_due (s := afterTurn s) hf (not_due_of_not_enabled he),
      elapse_of_counting (s := afterTurn s) hr hp, show polEnabled (afterTurn s) = false from he]
    simp [afterTurn, hc, zero]
  case waits =>
    rw [timerMove_of_not_due (s := afterTurn s) hf (not_due_of_not_enabled he),
      elapse_of_not_counting (s := afterTurn s) (.inr hp)]
    rfl
  case toggles =>
    have due : polDueNow (afterTurn s) = true :=
      (polDueNow_iff _).2 ⟨(halfPeriodOver_iff (afterTurn s)).2 ⟨hf, hr, hover⟩, he⟩
    rw [timerMove_of_due due, polToggle_timed (s := afterTurn s) hf, flip_eq]
    rfl

/-! ### What a turn of the timer leaves unchanged (R187) -/

/-- All but the polarity state, its pin's level, the trace's polarity writes and a running delay. -/
structure TimerFrame (s t : State) : Prop where
  eq : t = { s with
    polState := t.polState, polCnt := t.polCnt, polPend := t.polPend, out := t.out, waitLeft := t.waitLeft
    pins := { s.pins with pol := { s.pins.pol with level := t.pins.pol.level } } }
  noPol : noPol t.out = noPol s.out

theorem TimerEffect.frame {s t : State} (h : TimerEffect s t) : TimerFrame s t := by
  cases h with
  | toggled =>
    refine ⟨?_, by simp⟩
    cases hf : s.params.form with
    | untimed => rw [polToggle_untimed hf]; rfl
    | timed => rw [polToggle_timed hf]; rfl
  | idle | waited | counted | deferred => exact ⟨rfl, rfl⟩

/-- What a turn of the timer does to the polarity: nothing, or one write of the other level, where it is enabled (R183). -/
theorem TimerEffect.polarity {s t : State} (h : TimerEffect s t) :
    (t.out = s.out ∧ t.polState = s.polState ∧ t.pins = s.pins) ∨
      (polEnabled s = true ∧ t.out = s.out ++ [.pin .pol s.polState.flip] ∧ t.polState = s.polState.flip ∧
        t.pins.pol.level = some s.polState.flip) := by
  cases h with
  | toggled he => exact .inr ⟨he, by simp, by simp, by simp⟩
  | idle | waited | counted | deferred => exact .inl ⟨rfl, rfl, rfl⟩

/-! ### What a command leaves unchanged -/

/-- No command touches a pin, the timer, the trace or the schedule, or clears one of the sticky bits (60_exceptions.md R220). -/
structure CommandFrame (s t : State) : Prop where
  params   : t.params = s.params
  pins     : t.pins = s.pins
  polState : t.polState = s.polState
  polRun   : t.polRun = s.polRun
  polCnt   : t.polCnt = s.polCnt
  polPend  : t.polPend = s.polPend
  out      : t.out = s.out
  waitLeft : t.waitLeft = s.waitLeft
  turns    : t.env.turns = s.env.turns
  ill      : s.flags.ill = true → t.flags.ill = true
  initFail : s.flags.initFail = true → t.flags.initFail = true
  failed   : s.life = .failed → t.life = .failed
  ready    : s.life = .ready → t.life = .ready

theorem Effect.frame {s t : State} (h : Effect s t) : CommandFrame s t := by
  cases h with
  | wrote sp | filled sp => cases sp <;> exact ⟨rfl, rfl, rfl, rfl, rfl, rfl, rfl, rfl, rfl, id, id, id, id⟩
  | rejected => exact ⟨rfl, rfl, rfl, rfl, rfl, rfl, rfl, rfl, rfl, fun _ => rfl, id, id, id⟩
  | initAnswered hl =>
    unfold beginInit
    split
    · exact ⟨rfl, rfl, rfl, rfl, rfl, rfl, rfl, rfl, rfl, id, id, by simp [hl], by simp [hl]⟩
    · exact ⟨rfl, rfl, rfl, rfl, rfl, rfl, rfl, rfl, rfl, id, fun _ => rfl, by simp [hl], by simp [hl]⟩
  | dropped | imageBad | imageLoaded | linesAccepted | clearAccepted =>
    exact ⟨rfl, rfl, rfl, rfl, rfl, rfl, rfl, rfl, rfl, id, id, id, id⟩

/-- No command touches the port. -/
theorem Effect.port {s t : State} (h : Effect s t) : t.cbuf = s.cbuf ∧ t.env.cmdIn = s.env.cmdIn := by
  cases h with
  | wrote sp | filled sp => cases sp <;> exact ⟨rfl, rfl⟩
  | initAnswered =>
    unfold beginInit
    split <;> exact ⟨rfl, rfl⟩
  | _ => exact ⟨rfl, rfl⟩

theorem PortEffect.frame {s t : State} (h : PortEffect s t) : CommandFrame s t := by
  cases h with
  | runs b rest left i t hq hd he =>
    have f := he.frame
    exact ⟨f.params, f.pins, f.polState, f.polRun, f.polCnt, f.polPend, f.out, f.waitLeft, f.turns, f.ill, f.initFail,
      f.failed, f.ready⟩
  | rejects => exact ⟨rfl, rfl, rfl, rfl, rfl, rfl, rfl, rfl, rfl, fun _ => rfl, id, id, id⟩
  | waits | takes => exact ⟨rfl, rfl, rfl, rfl, rfl, rfl, rfl, rfl, rfl, id, id, id, id⟩

/-! ### Every step but hardware reset -/

/-- The five kinds of step: the main timeline held up by a delay, the sequencer, the port, the timer, a host read. -/
inductive Moved (s : State) : State → Prop where
  | held (ht : nextTurn s = .main) (hd : delayRunning s = true) : Moved s (afterTurn s)
  | sequenced (ht : nextTurn s = .main) (hd : delayRunning s = false) (hb : busy s = true) (t : State)
      (e : SeqEffect (afterTurn s) t) : Moved s t
  | ported (ht : nextTurn s = .main) (hd : delayRunning s = false) (hp : s.phase = .idle) (t : State)
      (e : PortEffect (afterTurn s) t) : Moved s t
  | ticked (ht : nextTurn s = .timer) : Moved s (timerMove (afterTurn s))
  | read (n : Nat) (ht : nextTurn s = .read n) : Moved s (hostRead n (afterTurn s))

theorem geometryOk_of_step {s t : State} (h : step s = .next t) : s.params.geometryOk = true := by
  unfold step at h
  split at h
  · assumption
  · cases h

theorem step_moved {s t : State} (h : step s = .next t) (hr : nextTurn s ≠ .reset) : Moved s t := by
  cases step_next h with
  | main ht _ e =>
    cases hd : delayRunning s with
    | true =>
      rw [step_of_main_turn (geometryOk_of_step h) ht, mainMove_of_delay (s := afterTurn s) hd] at h
      cases h
      exact .held ht hd
    | false =>
      cases e with
      | waited hd' => exact absurd (hd.symm.trans hd') Bool.false_ne_true
      | sequenced hb _ hs => exact .sequenced ht hd hb t (seqStep_next hs)
      | ported hb _ hp => exact .ported ht hd ((not_busy_iff s).1 hb) t hp
  | timer ht => exact .ticked ht
  | read n ht => exact .read n ht
  | reset ht => exact absurd ht hr

end Sys2Proof.Machine

/-! SUPPORT. What every step but hardware reset leaves unchanged: the port and the buffers while the block is busy
(20_memory.md R57), the polarity under `LOCKED` (44_polarity_timer.md R186, R187), the sticky bits (60_exceptions.md R220),
the parameters; and how a running delay holds the main timeline (R227). -/

namespace Sys2Proof.Machine

theorem lockOf_eq_tx_iff (s : State) : lockOf s = .tx ↔ s.kind ≠ .init ∧ inSelectWindow s.phase = true := by
  cases hk : s.kind <;> simp [lockOf, hk]

theorem lockOf_ne_tx_iff (s : State) : lockOf s = .free ↔ lockOf s ≠ .tx := by
  cases lockOf s <;> simp

/-- R27: `STATUS` is a function of the flags, `LIFE` and `PHASE`. -/
theorem statusReg_congr {s t : State} (hf : t.flags = s.flags) (hl : t.life = s.life) (hp : t.phase = s.phase) :
    statusReg t = statusReg s := by
  simp only [statusReg, ready, busy, hf, hl, hp]

/-- Settles O9: of the five kinds of step the port's is the idle block's only, and the sequencer's has `SeqFrame`. -/
theorem busyBlockKeepsPortAndBuffers : Obligations.BusyBlockKeepsPortAndBuffers := by
  unfold Obligations.BusyBlockKeepsPortAndBuffers
  intro s t hb hr h
  cases step_moved h hr with
  | held | read => exact ⟨rfl, rfl, fun _ => rfl, fun _ _ => rfl⟩
  | sequenced _ _ _ _ e =>
    have f := e.frame
    exact ⟨f.cmdIn, f.cbuf, fun a => congrArg (Memory.read · a) f.fb,
      fun hk a => congrArg (Memory.read · a) (e.transmit hk).lb⟩
  | ported _ _ hp => exact absurd hp ((busy_iff s).1 hb)
  | ticked =>
    rw [(timerMove_effect (afterTurn s)).frame.eq]
    exact ⟨rfl, rfl, fun _ => rfl, fun _ _ => rfl⟩

/-- Settles O46: every kind of step, hardware reset included, carries the parameters along. -/
theorem instanceNeverChanges : Obligations.InstanceNeverChanges := by
  unfold Obligations.InstanceNeverChanges
  refine fun s t => ⟨fun h => ?kept, fun hg => ?refused⟩
  case refused => simp [step, hg]
  case kept =>
    by_cases hr : nextTurn s = .reset
    · rw [step_of_reset_turn (geometryOk_of_step h) hr] at h
      cases h
      rfl
    · cases step_moved h hr with
      | held | read => rfl
      | sequenced _ _ _ _ e => exact e.frame.params
      | ported _ _ _ _ e => exact e.frame.params
      | ticked =>
        rw [(timerMove_effect (afterTurn s)).frame.eq]
        rfl

/-- Settles O38: `TimerFrame` lists what a turn of the timer changes. -/
theorem timerTouchesOnlyPolarity : Obligations.TimerTouchesOnlyPolarity := by
  unfold Obligations.TimerTouchesOnlyPolarity
  intro s t ht h
  rw [step_of_timer_turn (geometryOk_of_step h) ht] at h
  cases h
  obtain ⟨same, trace⟩ := (timerMove_effect (afterTurn s)).frame
  refine ⟨?_, ?_, ?_, ?_, ?_, ?_, ?status, ?_, ?_, ?_, ?_, ?_, ?_, ?_, ?_, ?_, ?_, trace⟩
  case status => exact statusReg_congr (by rw [same]; rfl) (by rw [same]; rfl) (by rw [same]; rfl)
  all_goals
    rw [same]
    rfl

/-- Step I3 sets `POL_RUN`; no step clears it. -/
theorem SeqEffect.polRun {s t : State} (h : SeqEffect s t) (hr : s.polRun = true) : t.polRun = true := by
  cases h with
  | started => rfl
  | _ => simpa [endGroup, finishInit, fillSpace] using hr

/-- Settles O39: step I3 sets `POL_RUN`, and nothing else writes it. -/
theorem onlyResetStopsTheTimer : Obligations.OnlyResetStopsTheTimer := by
  unfold Obligations.OnlyResetStopsTheTimer
  intro s t hrun hr h
  cases step_moved h hr with
  | held | read => exact hrun
  | sequenced _ _ _ _ e =>
    exact e.polRun hrun
  | ported _ _ _ _ e => exact e.frame.polRun.trans hrun
  | ticked =>
    rw [(timerMove_effect (afterTurn s)).frame.eq]
    exact hrun

/-- Settles O37: a transaction writes no polarity, and under `LOCKED` its lock disables the timer. -/
theorem noPolarityWriteWhileLocked : Obligations.NoPolarityWriteWhileLocked := by
  unfold Obligations.NoPolarityWriteWhileLocked
  intro s t harb hlock hr h
  have hk : s.kind ≠ .init := ((lockOf_eq_tx_iff s).1 hlock).1
  cases step_moved h hr with
  | held | read => rfl
  | sequenced _ _ _ _ e => exact (e.transmit hk).polWrites
  | ported _ _ hp => exact absurd hlock ((lockOf_ne_tx_iff s).1 (lockOf_of_idle hp))
  | ticked =>
    rcases (timerMove_effect (afterTurn s)).polarity with ⟨out, _⟩ | ⟨enabled, _⟩
    · exact congrArg polWrites out
    · rcases ((polEnabled_iff (afterTurn s)).1 enabled).2 with hfree | hfree
      · exact nomatch harb.symm.trans hfree
      · exact nomatch hlock.symm.trans hfree

/-! ### In a state that meets the invariant -/

/-- R185: in `READY` no sequence but a transaction runs. -/
theorem transmitting_of_ready {s : State} (hi : Inv s) (hlife : s.life = .ready) (hb : busy s = true) :
    s.kind ≠ .init := fun hk =>
  nomatch hlife.symm.trans (hi.initing.2 ⟨(busy_iff s).1 hb, hk⟩)

/-- Settles O40: in `READY` the timer alone writes the polarity pin, and it writes the level it moves to. -/
theorem pinFollowsPolarityStateAfterInit : Obligations.PinFollowsPolarityStateAfterInit := by
  unfold Obligations.PinFollowsPolarityStateAfterInit
  intro s t hi hlife hr h
  rw [← flip_eq]
  have still {t : State} (ho : polWrites t.out = polWrites s.out) (hs : t.polState = s.polState)
      (hp : t.pins.pol = s.pins.pol) :
      (s.pins.pol.level = some s.polState → t.pins.pol.level = some t.polState) ∧
        ((polWrites t.out = polWrites s.out ∧ t.polState = s.polState ∧ t.pins.pol = s.pins.pol) ∨
          (t.out = s.out ++ [.pin .pol s.polState.flip] ∧ t.polState = s.polState.flip ∧
            t.pins.pol.level = some s.polState.flip)) :=
    ⟨fun hl => by rw [hp, hs, hl], .inl ⟨ho, hs, hp⟩⟩
  cases step_moved h hr with
  | held | read => exact still rfl rfl rfl
  | sequenced _ _ hb _ e =>
    have f := e.transmit (show s.kind ≠ .init from transmitting_of_ready hi hlife hb)
    exact still f.polWrites f.polState f.pol
  | ported _ _ _ _ e => exact still (congrArg polWrites e.frame.out) e.frame.polState (congrArg Pins.pol e.frame.pins)
  | ticked =>
    rcases (timerMove_effect (afterTurn s)).polarity with ⟨out, state, pins⟩ | ⟨_, out, state, level⟩
    · exact still (congrArg polWrites out) state (congrArg Pins.pol pins)
    · exact ⟨fun _ => level.trans (congrArg some state.symm), .inr ⟨out, state, level⟩⟩

/-- Settles O44: commands keep the sticky bits by `CommandFrame`, a sequence writes `TX_FAIL` only, and of `LIFE` no more
than the end of SYS.INIT, which neither `READY` nor `FAILED` is running. -/
theorem stickyBitsStayUntilReset : Obligations.StickyBitsStayUntilReset := by
  unfold Obligations.StickyBitsStayUntilReset
  intro s t hi hr h
  cases step_moved h hr with
  | held | read => exact ⟨id, id, id, id⟩
  | sequenced _ _ hb _ e =>
    have life : s.life ≠ .initing → t.life = s.life := fun hl =>
      (e.transmit fun hk => hl (hi.initing.2 ⟨(busy_iff s).1 hb, hk⟩)).life
    rw [e.frame.flags]
    exact ⟨id, id, fun hl => (life (by simp [hl])).trans hl, fun hl => (life (by simp [hl])).trans hl⟩
  | ported _ _ _ _ e => exact ⟨e.frame.ill, e.frame.initFail, e.frame.failed, e.frame.ready⟩
  | ticked =>
    rw [(timerMove_effect (afterTurn s)).frame.eq]
    exact ⟨id, id, id, id⟩

/-! ### Delays and simultaneous steps in the timed form (60_exceptions.md R218 (b), R227) -/

theorem delayRunning_iff (s : State) : delayRunning s = true ↔ s.params.form = .timed ∧ 0 < s.waitLeft := by
  simp [delayRunning]

theorem delayRunning_eq_false_of_waitLeft {s : State} (h : s.waitLeft = 0) : delayRunning s = false := by
  simp [delayRunning, h]

/-- Settles O45: a delay loads the wait, a running one holds the main timeline, and only `elapse` takes from it. -/
theorem timedDelaysHoldTheMainTimeline : Obligations.TimedDelaysHoldTheMainTimeline := by
  unfold Obligations.TimedDelaysHoldTheMainTimeline
  intro s hg hf
  refine ⟨fun t d h ho => (seqStep_next h).waitLeft_of_delay hf ho, fun ht hw => ?held, fun t h hw hr => ?counts⟩
  case held =>
    rw [step_of_main_turn hg ht]
    exact mainMove_of_delay (s := afterTurn s) ((delayRunning_iff s).2 ⟨hf, hw⟩)
  case counts =>
    have running : delayRunning s = true := (delayRunning_iff s).2 ⟨hf, hw⟩
    cases step_moved h hr with
    | held ht => exact ⟨fun ht' => (nomatch ht.symm.trans ht'), fun _ => rfl⟩
    | sequenced _ hd | ported _ hd => exact nomatch running.symm.trans hd
    | ticked ht =>
      refine ⟨fun _ hdue => ?elapses, fun hdue => ?toggles⟩
      case elapses => rw [timerMove_of_not_due (s := afterTurn s) hf hdue, elapse_waitLeft, afterTurn_waitLeft]
      case toggles =>
        have due : polDueNow (afterTurn s) = true := hdue.resolve_left (not_not.2 ht)
        rw [timerMove_of_due due, polToggle_waitLeft, afterTurn_waitLeft]
    | read n ht => exact ⟨fun ht' => (nomatch ht.symm.trans ht'), fun _ => rfl⟩

/-- R218 (b), the sequencer first: once select is asserted under `LOCKED`, a toggle that was due is pending and disabled. -/
theorem select_defers_due_toggle {s : State} (hk : s.kind ≠ .init) (hdue : polDueNow s = true)
    (harb : s.params.polArb = .locked) :
    let t := goto .t2 (deferDue (emit (.pin .sel .high) s))
    t.polPend = true ∧ polEnabled t = false := by
  have isOver : halfPeriodOver s = true := ((polDueNow_iff s).1 hdue).1
  have locked : lockOf (goto .t2 (deferDue (emit (.pin .sel .high) s))) = .tx := (lockOf_eq_tx_iff _).2 ⟨hk, rfl⟩
  refine ⟨?pending, ?disabled⟩
  case pending =>
    have isOver' : halfPeriodOver (emit (.pin .sel .high) s) = true := isOver
    simp [isOver', harb]
  case disabled => simp [polEnabled, locked, harb]

/-- Settles O36: with no delay left the turn decides which of the two moves; where the last microsecond of a delay ends a
half-period, the toggle is due afterwards and the wait is over. -/
theorem expiryAndSequencerStepComeInEitherOrder : Obligations.ExpiryAndSequencerStepComeInEitherOrder := by
  unfold Obligations.ExpiryAndSequencerStepComeInEitherOrder
  intro s hi hf hb
  have hg : s.params.geometryOk = true := (legal_facts hi.legal).1
  refine ⟨fun hdue hw => ⟨fun ht => ?sequencerFirst, fun ht => ?timerFirst⟩, fun hp hc hw he ht => ?lastMicrosecond⟩
  case sequencerFirst =>
    have stepped : step s = seqStep (afterTurn s) := by
      rw [step_of_main_turn hg ht]
      exact mainMove_of_busy (s := afterTurn s) (delayRunning_eq_false_of_waitLeft hw) hb
    refine ⟨stepped, fun hk hp harb => ?_⟩
    obtain ⟨pending, disabled⟩ := select_defers_due_toggle (s := afterTurn s) hk hdue harb
    exact ⟨_, stepped.trans (SeqEffect.select (s := afterTurn s) hk hp).step, rfl, rfl, rfl, pending, disabled⟩
  case timerFirst =>
    have due : polDueNow (afterTurn s) = true := hdue
    refine ⟨polToggle (afterTurn s), s.polState.flip, ?_, by simp, by simp, by simp [hw]⟩
    rw [step_of_timer_turn hg ht, timerMove_of_due due]
  case lastMicrosecond =>
    obtain ⟨hr, hfree⟩ := (polEnabled_iff s).1 he
    have enabled : polEnabled (afterTurn s) = true := he
    have elapsed := elapse_of_counting (s := afterTurn s) hr hp
    refine ⟨elapse (afterTurn s), ?_, ?due, by simp [hw], by rw [elapsed]; rfl, by rw [elapsed]; rfl⟩
    · rw [step_of_timer_turn hg ht, timerMove_of_not_due (s := afterTurn s) hf (not_due_of_counting hp (by simp [hc]))]
    case due =>
      rw [elapsed, polDueNow_iff, halfPeriodOver_iff, polEnabled_iff]
      exact ⟨⟨hf, hr, .inr (by simp [hc])⟩, hr, hfree⟩

/-! ### The end of a run (44_polarity_timer.md R188) -/

theorem ended_iff (s : State) : ended s = true ↔ s.env.cmdIn = [] ∧ s.cbuf = [] ∧ s.phase = .idle := by
  simp [ended, busy, and_assoc]

/-- Settles O56: an idle block with nothing at the port waits, and the timer leaves everything observed. -/
theorem endedRunsStayEnded : Obligations.EndedRunsStayEnded := by
  unfold Obligations.EndedRunsStayEnded
  intro s t he hr h
  obtain ⟨hq, hc, hp⟩ := (ended_iff s).1 he
  cases step_moved h hr with
  | held | read => exact ⟨he, fun _ => rfl, fun _ => rfl, rfl, rfl⟩
  | sequenced _ _ hb => exact absurd hp ((busy_iff s).1 hb)
  | ported _ _ _ _ e =>
    cases e with
    | waits => exact ⟨he, fun _ => rfl, fun _ => rfl, rfl, rfl⟩
    | takes b rest hq' | rejects b op rest hq' | runs b rest left i _ hq' => exact nomatch hq.symm.trans hq'
  | ticked =>
    obtain ⟨same, trace⟩ := (timerMove_effect (afterTurn s)).frame
    have status := statusReg_congr (congrArg State.flags same) (congrArg State.life same) (congrArg State.phase same)
    refine ⟨?_, fun a => ?_, fun a => ?_, status, trace⟩
    · rw [same]; exact he
    · rw [same]; rfl
    · rw [same]; rfl

end Sys2Proof.Machine

/-! SUPPORT. The invariant in six parts, each with the fields it depends on: buffers, assembly buffer, sequencer, lifecycle,
timer, pins; and the registers of a running Write-Lines sequence. -/

namespace Sys2Proof.Machine

/-! ### The parts of the invariant -/

structure BufferInv (s : State) : Prop where
  legal    : s.params.legal = true
  lbWf     : s.lb.wf = true
  lbWithin : s.lb.within s.params.bpr = true
  fbWf     : s.fb.wf = true
  fbWithin : s.fb.within s.params.fbLen = true

structure PortInv (s : State) : Prop where
  cbufOpen : decode s.cbuf = .error .incomplete
  cbufIdle : s.phase ≠ .idle → s.cbuf = []

/-- All that a run of the sequencer rests on. -/
structure SeqInv (s : State) : Prop where
  geometry     : s.params.geometryOk = true
  phaseFits    : phaseFits s = true
  registersFit : registersFit s

structure LifeInv (s : State) : Prop where
  initing       : s.life = .initing ↔ s.phase ≠ .idle ∧ s.kind = .init
  transmitReady : s.phase ≠ .idle → s.kind ≠ .init → s.life = .ready
  failed        : s.life = .failed ↔ s.flags.initFail = true
  txFailReady   : s.life ≠ .ready → s.flags.txFail = false

structure TimerInv (s : State) : Prop where
  polRun        : s.polRun = decide (5 ≤ initProgress s)
  polPend       : s.polPend = true →
    s.params.form = .timed ∧ s.params.polArb = .locked ∧ s.polRun = true ∧ s.polCnt = 0
  polDeferred   : s.params.form = .timed → s.params.polArb = .locked → lockOf s = .tx → s.polCnt = 0 → s.polPend = true
  polCntUntimed : s.params.form = .untimed → s.polCnt = s.params.tPol
  polCntTimed   : s.polCnt ≤ s.params.tPol
  waitUntimed   : s.params.form = .untimed → s.waitLeft = 0
  polLevel      : s.polRun = false → s.pins.pol.level = none

structure PinInv (s : State) : Prop where
  selCfg    : s.pins.sel.cfg = decide (1 ≤ initProgress s)
  dispCfg   : s.pins.disp.cfg = decide (2 ≤ initProgress s)
  polCfg    : s.pins.pol.cfg = decide (3 ≤ initProgress s)
  selLevel  : s.pins.sel.level =
    if 7 ≤ initProgress s then some (if lockOf s = .tx then .high else .low) else none
  dispLevel : s.pins.disp.level =
    if 10 ≤ initProgress s then some .high else if 8 ≤ initProgress s then some .low else none

theorem inv_iff (s : State) :
    Inv s ↔ BufferInv s ∧ PortInv s ∧ SeqInv s ∧ LifeInv s ∧ TimerInv s ∧ PinInv s where
  mp h := ⟨⟨h.legal, h.lbWf, h.lbWithin, h.fbWf, h.fbWithin⟩, ⟨h.cbufOpen, h.cbufIdle⟩,
    ⟨(legal_facts h.legal).1, h.phaseFits, h.registersFit⟩, ⟨h.initing, h.transmitReady, h.failed, h.txFailReady⟩,
    ⟨h.polRun, h.polPend, h.polDeferred, h.polCntUntimed, h.polCntTimed, h.waitUntimed, h.polLevel⟩,
    ⟨h.selCfg, h.dispCfg, h.polCfg, h.selLevel, h.dispLevel⟩⟩
  mpr h := by
    obtain ⟨⟨⟩, ⟨⟩, ⟨⟩, ⟨⟩, ⟨⟩, ⟨⟩⟩ := h
    constructor <;> assumption

/-! ### What each part depends on -/

theorem BufferInv.congr {s t : State} (h : BufferInv s) (params : t.params = s.params) (lb : t.lb = s.lb)
    (fb : t.fb = s.fb) : BufferInv t := by
  obtain ⟨legal, lbWf, lbWithin, fbWf, fbWithin⟩ := h
  constructor <;> simpa only [params, lb, fb]

/-- While the block is busy `CBUF` is empty, and an empty one suits every position. -/
theorem portInv_of_empty {s : State} (h : s.cbuf = []) : PortInv s := ⟨by rw [h]; rfl, fun _ => h⟩

theorem lifeInv_of_ready {s : State} (hl : s.life = .ready) (hk : s.phase ≠ .idle → s.kind ≠ .init)
    (hf : s.flags.initFail = false) : LifeInv s where
  initing := by simpa [hl] using hk
  transmitReady _ _ := hl
  failed := by simp [hl, hf]
  txFailReady h := absurd hl h

theorem lifeInv_of_initing {s : State} (hl : s.life = .initing) (hp : s.phase ≠ .idle) (hk : s.kind = .init)
    (hf : s.flags.initFail = false) (ht : s.flags.txFail = false) : LifeInv s where
  initing := by simp [hl, hp, hk]
  transmitReady _ h := absurd hk h
  failed := by simp [hl, hf]
  txFailReady _ := ht

/-- The timer's part speaks of the progress of SYS.INIT up to step I3, and of the lock only where it is held. -/
theorem TimerInv.congr {s t : State} (h : TimerInv s) (params : t.params = s.params) (run : t.polRun = s.polRun)
    (cnt : t.polCnt = s.polCnt) (pend : t.polPend = s.polPend) (level : t.pins.pol.level = s.pins.pol.level)
    (wait : s.params.form = .untimed → t.waitLeft = s.waitLeft)
    (progress : min (initProgress t) 10 = min (initProgress s) 10) (lock : lockOf t = .tx → lockOf s = .tx) :
    TimerInv t where
  polRun := by
    rw [run, h.polRun, decide_eq_decide]
    omega
  polPend := by simpa only [pend, params, run, cnt] using h.polPend
  polDeferred := by
    rw [params, cnt, pend]
    exact fun hf ha hl => h.polDeferred hf ha (lock hl)
  polCntUntimed := by simpa only [params, cnt] using h.polCntUntimed
  polCntTimed := by simpa only [params, cnt] using h.polCntTimed
  waitUntimed := by
    rw [params]
    exact fun hf => (wait hf).trans (h.waitUntimed hf)
  polLevel := by simpa only [run, level] using h.polLevel

/-- The pins are all driven after ten steps of SYS.INIT. -/
theorem PinInv.congr {s t : State} (h : PinInv s) (cfg : t.pins.sel.cfg = s.pins.sel.cfg)
    (disp : t.pins.disp = s.pins.disp) (pol : t.pins.pol.cfg = s.pins.pol.cfg)
    (progress : min (initProgress t) 10 = min (initProgress s) 10)
    (sel : t.pins.sel.level = if 7 ≤ initProgress s then some (if lockOf t = .tx then .high else .low) else none) :
    PinInv t where
  selCfg := by
    rw [cfg, h.selCfg, decide_eq_decide]
    omega
  dispCfg := by
    rw [disp, h.dispCfg, decide_eq_decide]
    omega
  polCfg := by
    rw [pol, h.polCfg, decide_eq_decide]
    omega
  selLevel := by
    have same : 7 ≤ initProgress t ↔ 7 ≤ initProgress s := by omega
    simpa only [same] using sel
  dispLevel := by
    have ten : 10 ≤ initProgress t ↔ 10 ≤ initProgress s := by omega
    have eight : 8 ≤ initProgress t ↔ 8 ≤ initProgress s := by omega
    simpa only [ten, eight, disp] using h.dispLevel

/-! ### Small facts from the invariant -/

theorem Inv.seq {s : State} (h : Inv s) : SeqInv s := ((inv_iff s).1 h).2.2.1

theorem Inv.geometry {s : State} (h : Inv s) : s.params.geometryOk = true := (legal_facts h.legal).1

theorem Inv.life_of_transmit {s : State} (h : Inv s) (hb : busy s = true) (hk : s.kind ≠ .init) : s.life = .ready :=
  h.transmitReady ((busy_iff s).1 hb) hk

theorem Inv.life_of_init {s : State} (h : Inv s) (hb : busy s = true) (hk : s.kind = .init) : s.life = .initing :=
  h.initing.2 ⟨(busy_iff s).1 hb, hk⟩

theorem Inv.initFail_of_ne_failed {s : State} (h : Inv s) (hl : s.life ≠ .failed) : s.flags.initFail = false :=
  Bool.eq_false_iff.2 fun hf => hl (h.failed.2 hf)

theorem initProgress_of_ready {s : State} (h : s.life = .ready) : initProgress s = 14 := by simp [initProgress, h]

theorem initProgress_of_initing {s : State} (h : s.life = .initing) : initProgress s = initStepsDone s.phase := by
  simp [initProgress, h]

theorem lockOf_of_init {s : State} (h : s.kind = .init) : lockOf s = .free :=
  (lockOf_ne_tx_iff s).2 fun hl => ((lockOf_eq_tx_iff s).1 hl).1 h

/-- Outside the select window the lock is free. -/
theorem lockOf_of_outside {s : State} (h : inSelectWindow s.phase = false) : lockOf s = .free :=
  (lockOf_ne_tx_iff s).2 fun hl => Bool.false_ne_true (h.symm.trans ((lockOf_eq_tx_iff s).1 hl).2)

theorem lockOf_of_inside {s : State} (hk : s.kind ≠ .init) (h : inSelectWindow s.phase = true) : lockOf s = .tx :=
  (lockOf_eq_tx_iff s).2 ⟨hk, h⟩

/-! ### The registers of a Write-Lines sequence (43_transmit.md R153) -/

theorem linesInside_of_lines {s : State} (hl : linesInside s) (hn : s.linesLeft.toNat ≠ 0) :
    1 ≤ s.addr.toNat ∧ s.addr.toNat + s.linesLeft.toNat ≤ s.params.height + 1 ∧
      s.srcPtr.toNat + s.linesLeft.toNat * s.params.bpr ≤ spaceLen s.params s.srcSpace :=
  hl.resolve_left hn

theorem linesLeft_pred {s : State} (hn : s.linesLeft.toNat ≠ 0) :
    (s.linesLeft - 1).toNat = s.linesLeft.toNat - 1 := by
  have := s.linesLeft.isLt
  rw [BitVec.toNat_sub_of_le]
  · rfl
  · rw [BitVec.le_def]
    exact Nat.one_le_iff_ne_zero.2 hn

/-- The address of the next line group, where there is one, does not wrap (43_transmit.md R153, 90_conflicts.md C10). -/
theorem addr_succ {s : State} (hg : s.params.geometryOk = true) (hl : linesInside s) (hn : 1 < s.linesLeft.toNat) :
    (s.addr + 1).toNat = s.addr.toNat + 1 := by
  obtain ⟨_, lines, _⟩ := linesInside_of_lines hl (by omega)
  have height := (geometry_facts hg).2.2.2.2
  exact BitVec.toNat_add_of_lt (show s.addr.toNat + 1 < 2 ^ 8 by omega)

theorem srcPtr_next {s : State} (hg : s.params.geometryOk = true) (hl : linesInside s) (hn : s.linesLeft.toNat ≠ 0) :
    (s.srcPtr + BitVec.ofNat 21 s.params.bpr).toNat = s.srcPtr.toNat + s.params.bpr := by
  obtain ⟨_, _, bytes⟩ := linesInside_of_lines hl hn
  have bound := spaceLen_lt hg s.srcSpace
  have row : s.params.bpr ≤ s.linesLeft.toNat * s.params.bpr := Nat.le_mul_of_pos_left _ (by omega)
  have fits : (BitVec.ofNat 21 s.params.bpr).toNat = s.params.bpr := Nat.mod_eq_of_lt (by omega)
  rw [BitVec.toNat_add_of_lt (by omega), fits]

theorem byteIdx_succ {s : State} (hg : s.params.geometryOk = true) (hb : s.byteIdx.toNat < s.params.bpr) :
    (s.byteIdx + 1).toNat = s.byteIdx.toNat + 1 := by
  have := bpr_facts hg
  exact BitVec.toNat_add_of_lt (show s.byteIdx.toNat + 1 < 2 ^ 13 by omega)

theorem nextGroup_cases (n : BitVec 8) : (n.toNat = 0 ∧ nextGroup n = .t5) ∨ (n.toNat ≠ 0 ∧ nextGroup n = .t4a) := by
  by_cases h : n = 0
  · exact .inl ⟨by simp [h], if_pos h⟩
  · exact .inr ⟨fun h0 => h (BitVec.eq_of_toNat_eq h0), if_neg h⟩

/-- The data byte read next lies inside the source buffer. -/
theorem dataOffset_inside {s : State} (hl : linesInside s) (hn : s.linesLeft.toNat ≠ 0)
    (hb : s.byteIdx.toNat < s.params.bpr) : dataOffset s < spaceLen s.params s.srcSpace := by
  obtain ⟨_, _, bytes⟩ := linesInside_of_lines hl hn
  have row : s.params.bpr ≤ s.linesLeft.toNat * s.params.bpr := Nat.le_mul_of_pos_left _ (by omega)
  simp only [dataOffset]
  omega

/-- After a line trailer the registers name the next line group. -/
theorem linesInside_endGroup {s : State} (hg : s.params.geometryOk = true) (hl : linesInside s)
    (hn : 1 < s.linesLeft.toNat) : linesInside (endGroup s) := by
  obtain ⟨low, lines, bytes⟩ := linesInside_of_lines hl (by omega)
  have left : (s.linesLeft - 1).toNat = s.linesLeft.toNat - 1 := linesLeft_pred (by omega)
  have addr := addr_succ hg hl hn
  have ptr := srcPtr_next hg hl (by omega)
  have row : s.linesLeft.toNat * s.params.bpr = (s.linesLeft.toNat - 1) * s.params.bpr + s.params.bpr := by
    rw [← Nat.succ_mul]
    congr 1
    omega
  refine .inr ⟨?_, ?_, ?_⟩
  · show 1 ≤ (s.addr + 1).toNat
    omega
  · show (s.addr + 1).toNat + (s.linesLeft - 1).toNat ≤ s.params.height + 1
    omega
  · show (s.srcPtr + BitVec.ofNat 21 s.params.bpr).toNat + (s.linesLeft - 1).toNat * s.params.bpr ≤
      spaceLen s.params s.srcSpace
    rw [ptr, left]
    omega

end Sys2Proof.Machine

/-! SUPPORT. Every step of a running sequence keeps the invariant (43_transmit.md R153, R158, 45_lifecycle.md R196). -/

namespace Sys2Proof.Machine

/-! ### The power-up sequence's table -/

/-- A step that emits an event is one of twelve: not I10, and not I3, which starts the timer. -/
theorem initMove_stepsDone {p : Params} {ph q : Phase} {e : Event} (h : initMove p ph = some (e, q)) :
    initStepsDone q = initStepsDone ph + 1 ∧ initStepsDone ph < 13 ∧ initStepsDone ph ≠ 4 := by
  unfold initMove at h
  split at h
  all_goals cases h
  all_goals decide

theorem ne_idle_of_stepsDone {ph : Phase} (h : initStepsDone ph < 14) : ph ≠ .idle := by
  rintro rfl
  simp [initStepsDone] at h

/-! ### What the invariant says of the registers at a position, and what it asks there -/

theorem SeqInv.linesInside_of_head {s : State} (h : SeqInv s) (hk : s.kind = .write)
    (hp : s.phase = .t1 ∨ s.phase = .t2 ∨ s.phase = .t3) : linesInside s := by
  have fit := h.registersFit
  rcases hp with hp | hp | hp
  all_goals simpa only [Machine.registersFit, hk, hp] using fit

theorem SeqInv.group {s : State} (h : SeqInv s) (hk : s.kind = .write) (hp : s.phase = .t4a ∨ s.phase = .t4t) :
    s.linesLeft.toNat ≠ 0 ∧ linesInside s := by
  have fit := h.registersFit
  rcases hp with hp | hp
  all_goals simpa only [Machine.registersFit, hk, hp] using fit

theorem SeqInv.data {s : State} (h : SeqInv s) (hk : s.kind = .write) (hp : s.phase = .t4d) :
    s.linesLeft.toNat ≠ 0 ∧ linesInside s ∧ s.byteIdx.toNat < s.params.bpr := by
  have fit := h.registersFit
  simpa only [Machine.registersFit, hk, hp] using fit

theorem seqInv_head {s : State} (hg : s.params.geometryOk = true) (hk : s.kind ≠ .init)
    (hp : s.phase = .t1 ∨ s.phase = .t2 ∨ s.phase = .t3) (hl : s.kind = .write → linesInside s) : SeqInv s := by
  rcases kind_of_ne_init hk with hk | hk <;> rcases hp with hp | hp | hp
  all_goals exact ⟨hg, by simp only [phaseFits, hk, hp], by simp only [registersFit, hk, hp, hl]⟩

theorem seqInv_group {s : State} (hg : s.params.geometryOk = true) (hk : s.kind = .write)
    (hp : s.phase = .t4a ∨ s.phase = .t4t) (hn : s.linesLeft.toNat ≠ 0) (hl : linesInside s) : SeqInv s := by
  rcases hp with hp | hp
  all_goals exact ⟨hg, by simp only [phaseFits, hk, hp], by simpa only [registersFit, hk, hp] using ⟨hn, hl⟩⟩

theorem seqInv_data {s : State} (hg : s.params.geometryOk = true) (hk : s.kind = .write) (hp : s.phase = .t4d)
    (hn : s.linesLeft.toNat ≠ 0) (hl : linesInside s) (hb : s.byteIdx.toNat < s.params.bpr) : SeqInv s :=
  ⟨hg, by simp only [phaseFits, hk, hp], by simpa only [registersFit, hk, hp] using ⟨hn, hl, hb⟩⟩

theorem seqInv_tail {s : State} (hg : s.params.geometryOk = true) (hk : s.kind ≠ .init)
    (hp : s.phase = .t5 ∨ s.phase = .t6 ∨ s.phase = .t7 ∨ s.phase = .t8) : SeqInv s := by
  rcases kind_of_ne_init hk with hk | hk <;> rcases hp with hp | hp | hp | hp
  all_goals exact ⟨hg, by simp only [phaseFits, hk, hp], by simp only [registersFit, hk, hp]⟩

theorem seqInv_idle {s : State} (hg : s.params.geometryOk = true) (hp : s.phase = .idle) : SeqInv s := by
  cases hk : s.kind
  all_goals exact ⟨hg, by simp only [phaseFits, hk, hp], by simp only [registersFit, hk, hp]⟩

theorem seqInv_init {s : State} (hg : s.params.geometryOk = true) (hk : s.kind = .init)
    (hp : initStepsDone s.phase < 14) : SeqInv s := by
  have busy : s.phase ≠ .idle := fun h => by simp [h, initStepsDone] at hp
  exact ⟨hg, by simp [phaseFits, hk, hp], by simp [registersFit, hk]⟩

/-! ### The position and the registers -/

theorem inSelectWindow_nextGroup (n : BitVec 8) : inSelectWindow (nextGroup n) = true := by
  rcases nextGroup_cases n with ⟨_, h⟩ | ⟨_, h⟩ <;> rw [h] <;> rfl

theorem ne_init_of_write {s : State} (h : s.kind = .write) : s.kind ≠ .init := by simp [h]

theorem ne_init_of_clear {s : State} (h : s.kind = .clear) : s.kind ≠ .init := by simp [h]

/-- The positions of a sequence and its registers: after a mode byte or a line trailer the next line group or the frame's end,
inside a group the next byte. -/
theorem SeqEffect.seqInv {s t : State} (h : SeqEffect s t) (hs : SeqInv s) : SeqInv t := by
  have hg : t.params.geometryOk = true := by rw [h.frame.params, hs.geometry]
  cases h with
  | powerUp hk e q hm =>
    obtain ⟨next, last, _⟩ := initMove_stepsDone hm
    exact seqInv_init hg ((emit_kind e s).trans hk) (show initStepsDone q < 14 by omega)
  | started hk => exact seqInv_init hg hk (show initStepsDone .i4 < 14 by decide)
  | select hk hp => exact seqInv_head hg hk (.inr (.inl rfl)) fun hw => hs.linesInside_of_head hw (.inl hp)
  | settle hk hp => exact seqInv_head hg hk (.inr (.inr rfl)) fun hw => hs.linesInside_of_head hw (.inr (.inl hp))
  | modeWrite hw hp =>
    rcases nextGroup_cases s.linesLeft with ⟨_, next⟩ | ⟨hn, next⟩
    · exact seqInv_tail hg (ne_init_of_write hw) (.inl next)
    · exact seqInv_group hg hw (.inl next) hn (hs.linesInside_of_head hw (.inr (.inr hp)))
  | modeClear hc => exact seqInv_tail hg (ne_init_of_clear hc) (.inl rfl)
  | address hw hp =>
    obtain ⟨hn, hl⟩ := hs.group hw (.inl hp)
    exact seqInv_data hg hw rfl hn hl (bpr_facts hs.geometry).2.1
  | data hw hp inside more =>
    obtain ⟨hn, hl, hb⟩ := hs.data hw hp
    have next : (s.byteIdx + 1).toNat < s.params.bpr := by
      rw [byteIdx_succ hs.geometry hb]
      omega
    exact seqInv_data hg hw hp hn hl next
  | lastData hw hp =>
    obtain ⟨hn, hl, _⟩ := hs.data hw hp
    exact seqInv_group hg hw (.inr rfl) hn hl
  | trailer hw hp =>
    obtain ⟨hn, hl⟩ := hs.group hw (.inr hp)
    rcases nextGroup_cases (s.linesLeft - 1) with ⟨_, next⟩ | ⟨hn', next⟩
    · exact seqInv_tail hg (ne_init_of_write hw) (.inl next)
    · have more : 1 < s.linesLeft.toNat := by
        rw [linesLeft_pred hn] at hn'
        omega
      exact seqInv_group hg hw (.inl next) hn' (linesInside_endGroup (s := tx pad s) hs.geometry hl more)
  | frameEnd hk => exact seqInv_tail hg hk (.inr (.inl rfl))
  | hold hk => exact seqInv_tail hg hk (.inr (.inr (.inl rfl)))
  | deselect hk => exact seqInv_tail hg hk (.inr (.inr (.inr rfl)))
  | close | finished => exact seqInv_idle hg rfl

/-! ### Steps of a transaction -/

/-- R31, R160: select is high while the lock is held; a step either drives select so, or leaves both. -/
theorem SeqEffect.select_level {s t : State} (h : SeqEffect s t) (hk : s.kind ≠ .init) :
    t.pins.sel.level = some (if lockOf t = .tx then .high else .low) ∨
      (t.pins.sel.level = s.pins.sel.level ∧ lockOf t = lockOf s) := by
  have inside (hs : inSelectWindow s.phase = true) (hkt : t.kind = s.kind) (ht : inSelectWindow t.phase = true) :
      lockOf t = lockOf s := by
    rw [lockOf_of_inside hk hs, lockOf_of_inside (by rwa [hkt]) ht]
  cases h with
  | powerUp hi | started hi | finished hi => exact absurd hi hk
  | select =>
    have held : lockOf (goto .t2 (deferDue (emit (.pin .sel .high) s))) = .tx := lockOf_of_inside hk rfl
    exact .inl (by rw [held]; rfl)
  | deselect =>
    have free : lockOf (goto .t8 (emit (.pin .sel .low) s)) = .free := lockOf_of_outside rfl
    exact .inl (by rw [free]; rfl)
  | close _ hp =>
    have free : lockOf (goto .idle (emit (.delay s.params.tIframe) s)) = .free := lockOf_of_outside rfl
    exact .inr ⟨rfl, free.trans (lockOf_of_outside (by rw [hp]; rfl)).symm⟩
  | modeWrite _ hp | trailer _ hp => exact .inr ⟨rfl, inside (by rw [hp]; rfl) rfl (inSelectWindow_nextGroup _)⟩
  | data _ hp => exact .inr ⟨rfl, inside (by rw [hp]; rfl) rfl (by simp only [tx_phase, hp]; rfl)⟩
  | settle _ hp | modeClear _ hp | address _ hp | lastData _ hp | frameEnd _ hp | hold _ hp =>
    exact .inr ⟨rfl, inside (by rw [hp]; rfl) rfl rfl⟩

theorem emit_waitLeft_untimed (e : Event) {s : State} (h : s.params.form = .untimed) :
    (emit e s).waitLeft = s.waitLeft := by
  cases e with
  | delay d => exact emit_delay_waitLeft_untimed d s h
  | _ => rfl

/-- In the untimed form no delay is held (log 23). -/
theorem SeqEffect.waitLeft_untimed {s t : State} (h : SeqEffect s t) (hf : s.params.form = .untimed) :
    t.waitLeft = s.waitLeft := by
  cases h with
  | settle | hold | close | powerUp => exact emit_waitLeft_untimed _ hf
  | _ => rfl

/-- The timer meets a transaction at `T1` only, where a toggle that is due becomes a pending one (10_state.md R32). -/
theorem SeqEffect.timerInv {s t : State} (h : SeqEffect s t) (hi : Inv s) (hb : busy s = true)
    (hk : s.kind ≠ .init) : TimerInv t := by
  have old : TimerInv s := ((inv_iff s).1 hi).2.2.2.2.1
  have life := hi.life_of_transmit hb hk
  have f := h.frame
  have r := h.transmit hk
  have progress : initProgress t = initProgress s := by
    rw [initProgress_of_ready life, initProgress_of_ready (r.life.trans life)]
  have same (pend : t.polPend = s.polPend) (lock : lockOf t = .tx → lockOf s = .tx) : TimerInv t :=
    old.congr f.params r.polRun r.polCnt pend (congrArg PinState.level r.pol) h.waitLeft_untimed (by rw [progress]) lock
  cases h with
  | powerUp hi | started hi | finished hi => exact absurd hi hk
  | select =>
    have running : s.polRun = true := by rw [old.polRun, initProgress_of_ready life]; rfl
    have unmoved : halfPeriodOver (emit (.pin .sel .high) s) = halfPeriodOver s := rfl
    refine ⟨by rw [r.polRun, progress]; exact old.polRun, fun hp => ?pending, fun hf ha _ hc => ?deferred,
      old.polCntUntimed, old.polCntTimed, old.waitUntimed, old.polLevel⟩
    case pending =>
      simp only [goto_polPend, deferDue_polPend, unmoved, emit_polPend, emit_params, Bool.or_eq_true, Bool.and_eq_true,
        beq_iff_eq, halfPeriodOver_iff] at hp
      rcases hp with hp | ⟨⟨hf, hr, hp | hc⟩, ha⟩
      · exact old.polPend hp
      · exact old.polPend hp
      · exact ⟨hf, ha, hr, hc⟩
    case deferred =>
      have due : halfPeriodOver s = true := (halfPeriodOver_iff s).2 ⟨hf, running, .inr hc⟩
      have locked : s.params.polArb = .locked := ha
      simp [unmoved, due, locked]
  | close =>
    have free : lockOf (goto .idle (emit (.delay s.params.tIframe) s)) = .free := lockOf_of_outside rfl
    exact same rfl fun hl => nomatch free.symm.trans hl
  | settle _ hp | modeWrite _ hp | modeClear _ hp | address _ hp | data _ hp | lastData _ hp | trailer _ hp
  | frameEnd _ hp | hold _ hp | deselect _ hp => exact same rfl fun _ => lockOf_of_inside hk (by rw [hp]; rfl)

theorem SeqEffect.pinInv {s t : State} (h : SeqEffect s t) (hi : Inv s) (hb : busy s = true)
    (hk : s.kind ≠ .init) : PinInv t := by
  have old : PinInv s := ((inv_iff s).1 hi).2.2.2.2.2
  have life := hi.life_of_transmit hb hk
  have r := h.transmit hk
  have progress : initProgress t = initProgress s := by
    rw [initProgress_of_ready life, initProgress_of_ready (r.life.trans life)]
  refine old.congr r.selCfg r.disp (congrArg PinState.cfg r.pol) (by rw [progress]) ?_
  rcases h.select_level hk with level | ⟨level, lock⟩
  · rw [level, initProgress_of_ready life]
    rfl
  · rw [level, lock, old.selLevel]

theorem SeqFrame.initFail {s t : State} (f : SeqFrame s t) : t.flags.initFail = s.flags.initFail := by
  rw [f.flags]

theorem SeqEffect.inv_of_transmit {s t : State} (h : SeqEffect s t) (hi : Inv s) (hb : busy s = true)
    (hk : s.kind ≠ .init) : Inv t := by
  have life := hi.life_of_transmit hb hk
  have f := h.frame
  have r := h.transmit hk
  have empty : t.cbuf = [] := f.cbuf.trans (hi.cbufIdle ((busy_iff s).1 hb))
  have initFail : t.flags.initFail = false := f.initFail.trans (hi.initFail_of_ne_failed (by simp [life]))
  have buffers : BufferInv s := ((inv_iff s).1 hi).1
  exact (inv_iff t).2 ⟨buffers.congr f.params r.lb f.fb, portInv_of_empty empty, h.seqInv hi.seq,
    lifeInv_of_ready (r.life.trans life) (fun _ => by rwa [f.kind]) initFail, h.timerInv hi hb hk, h.pinInv hi hb hk⟩

end Sys2Proof.Machine

/-! SUPPORT. The steps of SYS.INIT (45_lifecycle.md R196) and the turns of the timer keep the invariant. -/

namespace Sys2Proof.Machine

/-! ### Steps of SYS.INIT (45_lifecycle.md R196) -/

/-- Before the timer runs no event drives a pin. -/
theorem emit_polLevel_of_early {s : State} {e : Event} {q : Phase} (hm : initMove s.params s.phase = some (e, q))
    (h : initStepsDone s.phase < 5) : (emit e s).pins.pol.level = s.pins.pol.level := by
  unfold initMove at hm
  split at hm
  all_goals cases hm
  all_goals simp_all [initStepsDone]

section
variable {s : State} (hi : Inv s) (hk : s.kind = .init) (hl : s.life = .initing)
include hi hk hl

/-- Row by row of the table: the event brings the pins from the levels of one step to those of the next. -/
theorem pinInv_powerUp {e : Event} {q : Phase} (hm : initMove s.params s.phase = some (e, q)) :
    PinInv (goto q (emit e s)) := by
  have life : (goto q (emit e s)).life = .initing := by simpa using hl
  have free : lockOf (goto q (emit e s)) = .free := lockOf_of_init (by simpa using hk)
  obtain ⟨selCfg, dispCfg, polCfg, selLevel, dispLevel⟩ := ((inv_iff s).1 hi).2.2.2.2.2
  rw [initProgress_of_initing hl] at selCfg dispCfg polCfg selLevel dispLevel
  rw [lockOf_of_init hk] at selLevel
  unfold initMove at hm
  split at hm
  all_goals cases hm
  all_goals
    rename_i hp
    rw [hp] at selCfg dispCfg polCfg selLevel dispLevel
    constructor
  all_goals
    rw [initProgress_of_initing life]
    simp_all [initStepsDone]

theorem timerInv_powerUp {e : Event} {q : Phase} (hm : initMove s.params s.phase = some (e, q)) :
    TimerInv (goto q (emit e s)) := by
  have life : (goto q (emit e s)).life = .initing := by simpa using hl
  have free : lockOf (goto q (emit e s)) = .free := lockOf_of_init (by simpa using hk)
  have old : TimerInv s := ((inv_iff s).1 hi).2.2.2.2.1
  have run := old.polRun
  obtain ⟨next, _, notTimer⟩ := initMove_stepsDone hm
  rw [initProgress_of_initing hl] at run
  refine ⟨?run, ?pend, fun _ _ hlock => (nomatch free.symm.trans hlock), ?untimed, ?timed, ?wait, fun hr => ?level⟩
  case run =>
    rw [initProgress_of_initing life, goto_polRun, emit_polRun, run, goto_phase, next, decide_eq_decide]
    omega
  case pend => simpa using old.polPend
  case untimed => simpa using old.polCntUntimed
  case timed => simpa using old.polCntTimed
  case wait =>
    rw [goto_params, emit_params]
    exact fun hf => (emit_waitLeft_untimed e hf).trans (old.waitUntimed hf)
  case level =>
    rw [goto_polRun, emit_polRun] at hr
    have early : initStepsDone s.phase < 5 := by simpa [hr] using run
    exact (emit_polLevel_of_early hm early).trans (old.polLevel hr)

theorem timerInv_started (hp : s.phase = .i3) : TimerInv (goto .i4 (startTimer s)) := by
  have old : TimerInv s := ((inv_iff s).1 hi).2.2.2.2.1
  have stopped : s.polRun = false := by rw [old.polRun, initProgress_of_initing hl, hp]; rfl
  have free : lockOf (goto .i4 (startTimer s)) = .free := lockOf_of_init hk
  exact ⟨by rw [initProgress_of_initing (show (goto .i4 (startTimer s)).life = .initing from hl)]; rfl,
    fun h => (nomatch stopped.symm.trans (old.polPend h).2.2.1), fun _ _ hlock => (nomatch free.symm.trans hlock),
    fun _ => rfl, le_rfl, old.waitUntimed, fun h => nomatch h⟩

theorem pinInv_started (hp : s.phase = .i3) : PinInv (goto .i4 (startTimer s)) := by
  have free : lockOf (goto .i4 (startTimer s)) = .free := lockOf_of_init hk
  have life : (goto .i4 (startTimer s)).life = .initing := hl
  obtain ⟨selCfg, dispCfg, polCfg, selLevel, dispLevel⟩ := ((inv_iff s).1 hi).2.2.2.2.2
  rw [initProgress_of_initing hl, hp] at selCfg dispCfg polCfg selLevel dispLevel
  constructor
  all_goals
    rw [initProgress_of_initing life]
    simpa [startTimer, initStepsDone]

end

theorem inv_of_powerUp {s : State} {e : Event} {q : Phase} (hi : Inv s) (hk : s.kind = .init) (hl : s.life = .initing)
    (hm : initMove s.params s.phase = some (e, q)) : Inv (goto q (emit e s)) := by
  obtain ⟨buffers, _, _, life, _, _⟩ := (inv_iff s).1 hi
  obtain ⟨next, last, _⟩ := initMove_stepsDone hm
  have before : s.phase ≠ .idle := ne_idle_of_stepsDone (by omega)
  have after : initStepsDone q < 14 := by omega
  exact (inv_iff _).2 ⟨buffers.congr (emit_params e s) (emit_lb e s) (emit_fb e s),
    portInv_of_empty ((emit_cbuf e s).trans (hi.cbufIdle before)), (SeqEffect.powerUp hk e q hm).seqInv hi.seq,
    lifeInv_of_initing ((emit_life e s).trans hl) (ne_idle_of_stepsDone after) ((emit_kind e s).trans hk)
      (by simpa using hi.initFail_of_ne_failed (by simp [hl])) (by simpa using hi.txFailReady (by simp [hl])),
    timerInv_powerUp hi hk hl hm, pinInv_powerUp hi hk hl hm⟩

theorem inv_of_started {s : State} (hi : Inv s) (hk : s.kind = .init) (hl : s.life = .initing) (hp : s.phase = .i3) :
    Inv (goto .i4 (startTimer s)) := by
  obtain ⟨buffers, _, _, life, _, _⟩ := (inv_iff s).1 hi
  exact (inv_iff _).2 ⟨buffers.congr rfl rfl rfl, portInv_of_empty (hi.cbufIdle (by simp [hp])),
    (SeqEffect.started hk hp).seqInv hi.seq,
    lifeInv_of_initing hl (by simp) hk (hi.initFail_of_ne_failed (by simp [hl])) (hi.txFailReady (by simp [hl])),
    timerInv_started hi hk hl hp, pinInv_started hi hk hl hp⟩

theorem inv_of_finished {s : State} (hi : Inv s) (hk : s.kind = .init) (hl : s.life = .initing) (hp : s.phase = .i10) :
    Inv (finishInit s) := by
  obtain ⟨buffers, _, _, _, timer, pins⟩ := (inv_iff s).1 hi
  have free : lockOf (finishInit s) = .free := lockOf_of_idle rfl
  have before : initProgress s = 13 := by rw [initProgress_of_initing hl, hp]; rfl
  have progress : min (initProgress (finishInit s)) 10 = min (initProgress s) 10 := by rw [before]; rfl
  have white : BufferInv (finishInit s) :=
    ⟨buffers.legal, Memory.wf_fill _ _ buffers.lbWf, Memory.within_fill _ buffers.lbWithin le_rfl, buffers.fbWf,
      buffers.fbWithin⟩
  have level := pins.selLevel
  rw [lockOf_of_init hk, ← free] at level
  exact (inv_iff _).2 ⟨white, portInv_of_empty (hi.cbufIdle (by simp [hp])), (SeqEffect.finished hk hp).seqInv hi.seq,
    lifeInv_of_ready rfl (fun h => absurd rfl h) (hi.initFail_of_ne_failed (by simp [hl])),
    timer.congr rfl rfl rfl rfl rfl (fun _ => rfl) progress (fun h => (nomatch free.symm.trans h)),
    pins.congr rfl rfl rfl progress level⟩

/-- Every step of a running sequence keeps the invariant. -/
theorem SeqEffect.inv {s t : State} (h : SeqEffect s t) (hi : Inv s) (hb : busy s = true) : Inv t := by
  by_cases hk : s.kind = .init
  · have hl := hi.life_of_init hb hk
    cases h with
    | powerUp _ e q hm => exact inv_of_powerUp hi hk hl hm
    | started _ hp => exact inv_of_started hi hk hl hp
    | finished _ hp => exact inv_of_finished hi hk hl hp
    | modeWrite hw | modeClear hw | address hw | data hw | lastData hw | trailer hw => exact nomatch hk.symm.trans hw
    | select hn | settle hn | frameEnd hn | hold hn | deselect hn | close hn => exact absurd hk hn
  · exact h.inv_of_transmit hi hb hk

/-! ### The timer -/

theorem locked_of_not_enabled {s : State} (hr : s.polRun = true) (h : polEnabled s = false) :
    s.params.polArb = .locked := by
  cases ha : s.params.polArb with
  | locked => rfl
  | free => exact absurd ((polEnabled_iff s).2 ⟨hr, .inl ha⟩) (by simp [h])

theorem not_enabled_of_locked {s : State} (ha : s.params.polArb = .locked) (hl : lockOf s = .tx) :
    polEnabled s = false := by
  simp [polEnabled, ha, hl]

theorem TimerEffect.timerInv {s t : State} (h : TimerEffect s t) (hi : Inv s) : TimerInv t := by
  have old : TimerInv s := ((inv_iff s).1 hi).2.2.2.2.1
  have timedOnly (hf : s.params.form = .timed) (hu : s.params.form = .untimed) : False := nomatch hf.symm.trans hu
  cases h with
  | toggled he =>
    have running : s.polRun = true := ((polEnabled_iff s).1 he).1
    cases hf : s.params.form with
    | untimed =>
      rw [polToggle_untimed hf]
      exact ⟨old.polRun, old.polPend, old.polDeferred, old.polCntUntimed, old.polCntTimed, old.waitUntimed,
        fun hr => nomatch running.symm.trans hr⟩
    | timed =>
      have period : 1 ≤ s.params.tPol := (legal_facts hi.legal).2.2.2.2.2
      rw [polToggle_timed hf]
      exact ⟨old.polRun, fun hp => (nomatch hp), fun _ _ _ hc => absurd hc (Nat.ne_of_gt period),
        fun hu => (timedOnly hf hu).elim, le_rfl, old.waitUntimed, fun hr => nomatch running.symm.trans hr⟩
  | idle => exact old
  | waited hf => exact old.congr rfl rfl rfl rfl rfl (fun hu => (timedOnly hf hu).elim) rfl id
  | counted hf hr hp hc =>
    refine ⟨old.polRun, fun h => (nomatch h), fun _ ha hl hz => ?later, fun hu => (timedOnly hf hu).elim,
      (Nat.sub_le ..).trans old.polCntTimed, fun hu => (timedOnly hf hu).elim, old.polLevel⟩
    case later =>
      have disabled : polEnabled s = false := not_enabled_of_locked ha hl
      have many : 2 ≤ s.polCnt := hc.resolve_right (by simp [disabled])
      have zero : s.polCnt - 1 = 0 := hz
      omega
  | deferred hf hr he hc =>
    exact ⟨old.polRun, fun _ => ⟨hf, locked_of_not_enabled hr he, hr, rfl⟩, fun _ _ _ _ => rfl,
      fun hu => (timedOnly hf hu).elim, Nat.zero_le _, fun hu => (timedOnly hf hu).elim, old.polLevel⟩

/-- The timer's turn touches no other part (R187). -/
theorem TimerEffect.inv {s t : State} (h : TimerEffect s t) (hi : Inv s) : Inv t := by
  have same := h.frame.eq
  refine (inv_iff t).2 ⟨?buffers, ?port, ?seq, ?life, h.timerInv hi, ?pins⟩
  all_goals rw [same]
  case buffers => exact ⟨hi.legal, hi.lbWf, hi.lbWithin, hi.fbWf, hi.fbWithin⟩
  case port => exact ⟨hi.cbufOpen, hi.cbufIdle⟩
  case seq => exact ⟨hi.geometry, hi.phaseFits, hi.registersFit⟩
  case life => exact ⟨hi.initing, hi.transmitReady, hi.failed, hi.txFailReady⟩
  case pins => exact ⟨hi.selCfg, hi.dispCfg, hi.polCfg, hi.selLevel, hi.dispLevel⟩

end Sys2Proof.Machine

/-! SUPPORT. Commands, the port and hardware reset keep the invariant; with the sequencer and the timer, so does every step, and a
state that meets the invariant always has a next one. -/

namespace Sys2Proof.Machine

/-! ### Commands that write a buffer or a flag -/

/-- Of the flags the invariant speaks of the two failures only. -/
theorem inv_of_flags {s : State} (hi : Inv s) (f : Flags) (initFail : f.initFail = s.flags.initFail)
    (txFail : f.txFail = s.flags.txFail) : Inv { s with flags := f } := by
  cases hi
  constructor
  case failed => simpa only [initFail]
  case txFailReady => simpa only [txFail]
  all_goals assumption

theorem Inv.memWf {s : State} (hi : Inv s) (sp : Space) : (s.mem sp).wf = true := by
  cases sp
  · exact hi.lbWf
  · exact hi.fbWf

theorem Inv.memWithin {s : State} (hi : Inv s) (sp : Space) : (s.mem sp).within (spaceLen s.params sp) = true := by
  cases sp
  · exact hi.lbWithin
  · exact hi.fbWithin

theorem inv_of_withMem {s : State} (hi : Inv s) (sp : Space) {m : Memory} (wf : m.wf = true)
    (within : m.within (spaceLen s.params sp) = true) : Inv (s.withMem sp m) := by
  cases hi
  cases sp
  all_goals
    constructor
    all_goals assumption

/-- An incomplete command in the assembly buffer of an idle block. -/
theorem inv_of_cbuf {s : State} (hi : Inv s) (hp : s.phase = .idle) {c : List Byte}
    (hc : decode c = .error .incomplete) : Inv { s with cbuf := c } := by
  cases hi
  constructor
  case cbufIdle => exact fun h => absurd hp h
  all_goals assumption

/-! ### Commands that start a sequence -/

/-- What an accepted SYS.INIT or transmit command leaves to the running sequence. -/
structure StartFrame (s t : State) : Prop where
  params   : t.params = s.params
  lb       : t.lb = s.lb
  fb       : t.fb = s.fb
  cbuf     : t.cbuf = s.cbuf
  pins     : t.pins = s.pins
  polRun   : t.polRun = s.polRun
  polCnt   : t.polCnt = s.polCnt
  polPend  : t.polPend = s.polPend
  waitLeft : t.waitLeft = s.waitLeft

/-- At the acceptance the lock is free as before, and SYS.INIT stands where it stood. -/
theorem inv_of_start {s t : State} (hi : Inv s) (hp : s.phase = .idle) (hc : s.cbuf = []) (same : StartFrame s t)
    (progress : initProgress t = initProgress s) (seq : SeqInv t) (life : LifeInv t) (free : lockOf t = .free) :
    Inv t := by
  obtain ⟨buffers, _, _, _, timer, pins⟩ := (inv_iff s).1 hi
  obtain ⟨params, lb, fb, cbuf, samePins, polRun, polCnt, polPend, waitLeft⟩ := same
  have level := pins.selLevel
  rw [lockOf_of_idle hp, ← free] at level
  exact (inv_iff t).2 ⟨buffers.congr params lb fb, portInv_of_empty (cbuf.trans hc), seq, life,
    timer.congr params polRun polCnt polPend (by rw [samePins]) (fun _ => waitLeft) (by rw [progress])
      (fun h => nomatch free.symm.trans h),
    pins.congr (by rw [samePins]) (by rw [samePins]) (by rw [samePins]) (by rw [progress]) (by rwa [samePins])⟩

theorem linesInside_acceptLines {s : State} {l n : Nat} {sp : Space} {r : Nat} (hg : s.params.geometryOk = true)
    (h : wellFormedRequest s.params l n sp r = true) : linesInside (acceptLines l n sp r s) := by
  obtain ⟨_, lines, addr, ptr, _⟩ := acceptLines_acceptedAs hg h
  obtain ⟨low, high, _⟩ := request_lines_inside h
  have rows := request_rows_inside h
  by_cases hn : n = 0
  · exact .inl (lines.trans hn)
  · refine .inr ⟨?_, ?_, ?_⟩
    · rwa [addr hn]
    · rwa [addr hn, lines]
    · rwa [ptr, lines]

theorem inv_of_linesAccepted {s : State} {l n : Nat} {sp : Space} {r : Nat} (hi : Inv s) (hp : s.phase = .idle)
    (hc : s.cbuf = []) (hl : s.life = .ready) (h : wellFormedRequest s.params l n sp r = true) :
    Inv (acceptLines l n sp r s) := by
  have write : (acceptLines l n sp r s).kind ≠ .init := Kind.noConfusion
  have life : (acceptLines l n sp r s).life = .ready := hl
  exact inv_of_start hi hp hc ⟨rfl, rfl, rfl, rfl, rfl, rfl, rfl, rfl, rfl⟩
    (by rw [initProgress_of_ready life, initProgress_of_ready hl])
    (seqInv_head hi.geometry write (.inl rfl) fun _ => linesInside_acceptLines hi.geometry h)
    (lifeInv_of_ready life (fun _ => write) (hi.initFail_of_ne_failed (by simp [hl]))) (lockOf_of_outside rfl)

theorem inv_of_clearAccepted {s : State} (hi : Inv s) (hp : s.phase = .idle) (hc : s.cbuf = []) (hl : s.life = .ready) :
    Inv (goto .t1 (clearTxFail { s with kind := .clear })) :=
  inv_of_start hi hp hc ⟨rfl, rfl, rfl, rfl, rfl, rfl, rfl, rfl, rfl⟩
    (by rw [initProgress_of_ready (by exact hl), initProgress_of_ready hl])
    (seqInv_head hi.geometry Kind.noConfusion (.inl rfl) fun h => nomatch h)
    (lifeInv_of_ready hl (fun _ => Kind.noConfusion) (hi.initFail_of_ne_failed (by simp [hl]))) (lockOf_of_outside rfl)

theorem initProgress_of_uninit {s : State} (h : s.life = .uninit) : initProgress s = 0 := by simp [initProgress, h]

theorem inv_of_initAnswered {s : State} (hi : Inv s) (hp : s.phase = .idle) (hc : s.cbuf = []) (hl : s.life = .uninit)
    (answer : Bool) (o : Outside) : Inv (beginInit answer { s with env := o }) := by
  have initFail := hi.initFail_of_ne_failed (by simp [hl])
  have txFail := hi.txFailReady (by simp [hl])
  cases answer with
  | true =>
    exact inv_of_start (t := goto .i1a { s with env := o, life := .initing, kind := .init }) hi hp hc
      ⟨rfl, rfl, rfl, rfl, rfl, rfl, rfl, rfl, rfl⟩ (by rw [initProgress_of_uninit hl]; rfl)
      (seqInv_init hi.geometry rfl (show initStepsDone .i1a < 14 by decide))
      (lifeInv_of_initing rfl Phase.noConfusion rfl initFail txFail) (lockOf_of_outside rfl)
  | false =>
    have failed : LifeInv (setInitFail { s with env := o, life := .failed }) :=
      ⟨⟨fun h => (nomatch h), fun h => absurd hp h.1⟩, fun h => absurd hp h, ⟨fun _ => rfl, fun _ => rfl⟩, fun _ => txFail⟩
    exact inv_of_start (t := setInitFail { s with env := o, life := .failed }) hi hp hc
      ⟨rfl, rfl, rfl, rfl, rfl, rfl, rfl, rfl, rfl⟩ (by rw [initProgress_of_uninit hl]; rfl) (seqInv_idle hi.geometry hp)
      failed (lockOf_of_idle hp)

/-- Every command keeps the invariant, run by an idle block with an empty assembly buffer. -/
theorem Effect.inv {s t : State} (h : Effect s t) (hi : Inv s) (hp : s.phase = .idle) (hc : s.cbuf = []) : Inv t := by
  cases h with
  | rejected | dropped | imageBad => exact inv_of_flags hi _ rfl rfl
  | wrote sp a v inside =>
    exact inv_of_flags (inv_of_withMem hi sp (Memory.wf_write a v (hi.memWf sp))
      (Memory.within_write v (hi.memWithin sp) inside)) _ rfl rfl
  | filled sp v =>
    exact inv_of_withMem hi sp (Memory.wf_fill _ v (hi.memWf sp)) (Memory.within_fill v (hi.memWithin sp) le_rfl)
  | imageLoaded bs hlen =>
    have within : (s.fb.load 0 bs).within s.params.fbLen = true :=
      Memory.within_load bs 0 hi.fbWithin (by omega)
    exact inv_of_flags (inv_of_withMem hi .fb (Memory.wf_load bs 0 hi.fbWf) within) _ rfl rfl
  | linesAccepted l n sp r hl hw => exact inv_of_linesAccepted hi hp hc hl hw
  | clearAccepted hl => exact inv_of_clearAccepted hi hp hc hl
  | initAnswered hl => exact inv_of_initAnswered hi hp hc hl _ _

theorem PortEffect.inv {s t : State} (h : PortEffect s t) (hi : Inv s) (hp : s.phase = .idle) : Inv t := by
  have emptied : Inv { s with cbuf := [] } := inv_of_cbuf hi hp rfl
  cases h with
  | waits => exact hi
  | takes b rest hq hd => exact inv_of_outside (s := { s with cbuf := s.cbuf ++ [b] }) _ (inv_of_cbuf hi hp hd)
  | rejects => exact inv_of_flags (inv_of_outside (s := { s with cbuf := [] }) _ emptied) _ rfl rfl
  | runs b rest left i t hq hd he => exact he.inv (inv_of_outside (s := { s with cbuf := [] }) _ emptied) hp rfl

/-! ### Reset (10_state.md R34) -/

theorem inv_resetWith {p : Params} (h : p.legal = true) (o : Outside) : Inv (State.resetWith p o) := by
  have free : lockOf (State.resetWith p o) = .free := lockOf_of_idle rfl
  refine (inv_iff _).2 ⟨⟨h, rfl, rfl, rfl, rfl⟩, portInv_of_empty rfl, seqInv_idle (legal_facts h).1 rfl, ?life, ?timer,
    ⟨rfl, rfl, rfl, rfl, rfl⟩⟩
  case life =>
    exact ⟨⟨fun h => (nomatch h), fun h => absurd rfl h.1⟩, fun h => absurd rfl h,
      ⟨fun h => (nomatch h), fun h => (nomatch h)⟩, fun _ => rfl⟩
  case timer =>
    exact ⟨rfl, fun h => (nomatch h), fun _ _ hl => (nomatch free.symm.trans hl), fun _ => rfl, le_rfl, fun _ => rfl,
      fun _ => rfl⟩

theorem traceInv_resetWith (p : Params) (o : Outside) : TraceInv (State.resetWith p o) := ⟨.between, rfl, rfl⟩

/-- The mode bytes of the reset parameters differ, whatever the open parameters are (00_scope.md R6). -/
theorem modeWrite_ne_modeClear : Config.modeWrite ≠ Config.modeClear := by
  unfold Config.modeClear
  split
  case isTrue same =>
    rw [same]
    intro h
    have bit := congrArg (BitVec.getLsbD · 0) h
    simp at bit
  case isFalse differ => exact fun h => differ h.symm

theorem legal_reset : State.reset.params.legal = true := by
  have geometry : Config.params.geometryOk = true := rfl
  have modes : Config.params.modeWrite ≠ Config.params.modeClear := modeWrite_ne_modeClear
  show Config.params.legal = true
  simp only [Params.legal, Bool.and_eq_true, decide_eq_true_eq]
  exact ⟨⟨⟨⟨⟨geometry, modes⟩, Nat.le_refl 3⟩, Nat.le_refl 1⟩, Nat.le_refl 1⟩, Nat.le_of_ble_eq_true rfl⟩

/-- Settles O11. -/
theorem resetMeetsTheInvariant : Obligations.ResetMeetsTheInvariant := by
  unfold Obligations.ResetMeetsTheInvariant
  exact ⟨fun p o h => ⟨inv_resetWith h o, traceInv_resetWith p o⟩, legal_reset, inv_resetWith legal_reset Outside.start⟩

/-! ### Every step -/

theorem inv_afterTurn {s : State} (hi : Inv s) : Inv (afterTurn s) := inv_of_outside _ hi

theorem Moved.inv {s t : State} (h : Moved s t) (hi : Inv s) : Inv t := by
  cases h with
  | held => exact inv_afterTurn hi
  | sequenced _ _ hb _ e => exact e.inv (inv_afterTurn hi) hb
  | ported _ _ hp _ e => exact e.inv (inv_afterTurn hi) hp
  | ticked => exact (timerMove_effect (afterTurn s)).inv (inv_afterTurn hi)
  | read n => exact inv_of_outside _ (inv_afterTurn hi)

theorem step_inv {s t : State} (hi : Inv s) (h : step s = .next t) : Inv t := by
  by_cases hr : nextTurn s = .reset
  · rw [step_of_reset_turn hi.geometry hr] at h
    cases h
    exact inv_resetWith hi.legal _
  · exact (step_moved h hr).inv hi

/-- Settles O50: one lemma for each agent, and `inv_resetWith` for hardware reset. -/
theorem stepKeepsTheInvariant : Obligations.StepKeepsTheInvariant := by
  unfold Obligations.StepKeepsTheInvariant
  exact fun _ _ => step_inv

/-! ### Progress (60_exceptions.md R219) -/

theorem initMove_total {p : Params} {ph : Phase} (h : initStepsDone ph < 14) :
    (∃ e q, initMove p ph = some (e, q)) ∨ ph = .i3 ∨ ph = .i10 := by
  cases ph
  all_goals simp_all [initStepsDone, initMove]

/-- At every position of its sequence the sequencer has a step: every data byte lies inside its buffer (20_memory.md R56). -/
theorem seqEffect_total {s : State} (hi : SeqInv s) (hb : busy s = true) : ∃ t, SeqEffect s t := by
  have fits := hi.phaseFits
  have running := (busy_iff s).1 hb
  by_cases hk : s.kind = .init
  · have done : initStepsDone s.phase < 14 := by simpa [phaseFits, hk, running] using fits
    rcases initMove_total (p := s.params) done with ⟨e, q, hm⟩ | hp | hp
    · exact ⟨_, .powerUp hk e q hm⟩
    · exact ⟨_, .started hk hp⟩
    · exact ⟨_, .finished hk hp⟩
  · have transmit := kind_of_ne_init hk
    cases hp : s.phase with
    | idle => exact absurd hp running
    | t1 => exact ⟨_, .select hk hp⟩
    | t2 => exact ⟨_, .settle hk hp⟩
    | t3 =>
      rcases transmit with hw | hc
      · exact ⟨_, .modeWrite hw hp⟩
      · exact ⟨_, .modeClear hc hp⟩
    | t4a =>
      have hw : s.kind = .write := transmit.resolve_right fun hc => by simp [phaseFits, hc, hp] at fits
      exact ⟨_, .address hw hp⟩
    | t4d =>
      have hw : s.kind = .write := transmit.resolve_right fun hc => by simp [phaseFits, hc, hp] at fits
      obtain ⟨hn, hl, hbyte⟩ := hi.data hw hp
      have inside := dataOffset_inside hl hn hbyte
      by_cases last : s.byteIdx.toNat = s.params.bpr - 1
      · exact ⟨_, .lastData hw hp inside last⟩
      · exact ⟨_, .data hw hp inside last⟩
    | t4t =>
      have hw : s.kind = .write := transmit.resolve_right fun hc => by simp [phaseFits, hc, hp] at fits
      exact ⟨_, .trailer hw hp⟩
    | t5 => exact ⟨_, .frameEnd hk hp⟩
    | t6 => exact ⟨_, .hold hk hp⟩
    | t7 => exact ⟨_, .deselect hk hp⟩
    | t8 => exact ⟨_, .close hk hp⟩
    | _ => rcases transmit with h | h <;> simp [phaseFits, h, hp] at fits

theorem portStep_runs_params {s t : State} {i : Instr} (h : portStep s = .runs i t) : t.params = s.params := by
  unfold portStep at h
  split at h
  · cases h
  · split at h
    all_goals cases h
    rfl

theorem mainMove_total {s : State} (hi : Inv s) : ∃ t, mainMove s = .next t := by
  cases hd : delayRunning s with
  | true => exact ⟨_, mainMove_of_delay hd⟩
  | false =>
    cases hb : busy s with
    | true =>
      obtain ⟨t, e⟩ := seqEffect_total hi.seq hb
      exact ⟨t, (mainMove_of_busy hd hb).trans e.step⟩
    | false =>
      have hp := (not_busy_iff s).1 hb
      cases hq : portStep s with
      | waits t => exact ⟨t, mainMove_of_waits hd hp hq⟩
      | takes t => exact ⟨t, mainMove_of_takes hd hp hq⟩
      | rejects t => exact ⟨t, mainMove_of_rejects hd hp hq⟩
      | runs i t =>
        have geometry : t.params.geometryOk = true := by rw [portStep_runs_params hq, hi.geometry]
        rw [mainMove_of_runs hd hp hq]
        exact exec_total geometry i

/-- Settles O51: each of the four turns has a move. -/
theorem legalMachineNeverStops : Obligations.LegalMachineNeverStops := by
  unfold Obligations.LegalMachineNeverStops
  intro s hi
  cases ht : nextTurn s with
  | main =>
    rw [step_of_main_turn hi.geometry ht]
    exact mainMove_total (inv_afterTurn hi)
  | timer => exact ⟨_, step_of_timer_turn hi.geometry ht⟩
  | read n => exact ⟨_, step_of_read_turn hi.geometry ht⟩
  | reset => exact ⟨_, step_of_reset_turn hi.geometry ht⟩

end Sys2Proof.Machine

/-! SUPPORT. What a running sequence has still to do (43_transmit.md R153, R162): each step emits the first of the events still to
come and brings the end one step nearer, so a run of the sequencer emits exactly those events. -/

namespace Sys2Proof.Machine

/-! ### Bytes of a line group -/

theorem bytesAt_succ (m : Memory) (off k : Nat) : bytesAt m off (k + 1) = m.read off :: bytesAt m (off + 1) k := by
  simp [bytesAt, List.range_succ_eq_map, Nat.add_assoc, Nat.add_comm 1, Function.comp_def]

/-- The byte at `BYTE_IDX` is the first of those still to come in the line. -/
theorem bytesAt_rest (m : Memory) (ptr : Nat) {j n : Nat} (h : j < n) :
    bytesAt m (ptr + j) (n - j) = m.read (ptr + j) :: bytesAt m (ptr + (j + 1)) (n - (j + 1)) := by
  have count : n - j = n - (j + 1) + 1 := by omega
  rw [count, bytesAt_succ, Nat.add_assoc]

/-! ### The events still to come, position by position -/

/-- The line groups from the one at `ADDR` on. -/
def currentGroups (s : State) : List Byte :=
  lineGroups s.params (s.mem s.srcSpace) s.addr.toNat s.srcPtr.toNat s.linesLeft.toNat

/-- The bytes of the current line from `BYTE_IDX` on. -/
def restOfLine (s : State) : List Byte :=
  bytesAt (s.mem s.srcSpace) (s.srcPtr.toNat + s.byteIdx.toNat) (s.params.bpr - s.byteIdx.toNat)

/-- The events from the frame terminator on. -/
def frameTail (p : Params) : List Event := .tx pad :: envelopeEnd p

/-- A list of bytes sent, then the frame terminator and the end of the envelope. -/
def sentThenTail (p : Params) (bs : List Byte) : List Event := bs.map Event.tx ++ frameTail p

@[simp] theorem sentThenTail_nil (p : Params) : sentThenTail p [] = frameTail p := rfl
@[simp] theorem sentThenTail_cons (p : Params) (b : Byte) (bs : List Byte) :
    sentThenTail p (b :: bs) = .tx b :: sentThenTail p bs := rfl

section
variable {s : State}

theorem remaining_idle (hp : s.phase = .idle) : remaining s = [] := by
  cases hk : s.kind
  all_goals simp only [remaining, hk, hp]
  rfl

theorem remaining_write_t1 (hk : s.kind = .write) (hp : s.phase = .t1) : remaining s =
    .pin .sel .high :: .delay s.params.tSetup :: sentThenTail s.params (s.params.modeWrite :: currentGroups s) := by
  simp only [remaining, hk, hp]
  rfl

theorem remaining_write_t2 (hk : s.kind = .write) (hp : s.phase = .t2) : remaining s =
    .delay s.params.tSetup :: sentThenTail s.params (s.params.modeWrite :: currentGroups s) := by
  simp only [remaining, hk, hp]
  rfl

theorem remaining_write_t3 (hk : s.kind = .write) (hp : s.phase = .t3) : remaining s =
    sentThenTail s.params (s.params.modeWrite :: currentGroups s) := by
  simp only [remaining, hk, hp]
  rfl

theorem remaining_t4a (hk : s.kind = .write) (hp : s.phase = .t4a) : remaining s =
    sentThenTail s.params (currentGroups s) := by
  simp only [remaining, hk, hp]
  rfl

theorem remaining_t4d (hk : s.kind = .write) (hp : s.phase = .t4d) : remaining s =
    sentThenTail s.params (restOfLine s ++ pad :: groupsAfter s) := by
  simp only [remaining, hk, hp, sentThenTail, List.map_append, List.map_cons, List.append_assoc, List.cons_append]
  rfl

theorem remaining_t4t (hk : s.kind = .write) (hp : s.phase = .t4t) : remaining s =
    sentThenTail s.params (pad :: groupsAfter s) := by
  simp only [remaining, hk, hp]
  rfl

theorem remaining_clear_t1 (hk : s.kind = .clear) (hp : s.phase = .t1) : remaining s =
    .pin .sel .high :: .delay s.params.tSetup :: sentThenTail s.params [s.params.modeClear] := by
  simp only [remaining, hk, hp]
  rfl

theorem remaining_clear_t2 (hk : s.kind = .clear) (hp : s.phase = .t2) : remaining s =
    .delay s.params.tSetup :: sentThenTail s.params [s.params.modeClear] := by
  simp only [remaining, hk, hp]
  rfl

theorem remaining_clear_t3 (hk : s.kind = .clear) (hp : s.phase = .t3) : remaining s =
    sentThenTail s.params [s.params.modeClear] := by
  simp only [remaining, hk, hp]
  rfl

theorem remaining_t5 (hk : s.kind ≠ .init) (hp : s.phase = .t5) : remaining s = frameTail s.params := by
  rcases kind_of_ne_init hk with hk | hk
  all_goals
    simp only [remaining, hk, hp]
    rfl

theorem remaining_t6 (hk : s.kind ≠ .init) (hp : s.phase = .t6) : remaining s = envelopeEnd s.params := by
  rcases kind_of_ne_init hk with hk | hk
  all_goals simp only [remaining, hk, hp]

theorem remaining_t7 (hk : s.kind ≠ .init) (hp : s.phase = .t7) :
    remaining s = [.pin .sel .low, .delay s.params.tIframe] := by
  rcases kind_of_ne_init hk with hk | hk
  all_goals simp only [remaining, hk, hp]

theorem remaining_t8 (hk : s.kind ≠ .init) (hp : s.phase = .t8) : remaining s = [.delay s.params.tIframe] := by
  rcases kind_of_ne_init hk with hk | hk
  all_goals simp only [remaining, hk, hp]

theorem remaining_init (hk : s.kind = .init) : remaining s = (initEvents s.params).drop (initEventsDone s.phase) := by
  simp only [remaining, hk]

end

/-- The current line group, then those after it (30_encoding.md R82). -/
theorem currentGroups_eq {s : State} (hn : s.linesLeft.toNat ≠ 0) :
    currentGroups s = rev8 s.addr :: (bytesAt (s.mem s.srcSpace) s.srcPtr.toNat s.params.bpr ++ pad :: groupsAfter s) := by
  obtain ⟨n, hn⟩ := Nat.exists_eq_succ_of_ne_zero hn
  simp [currentGroups, groupsAfter, lineGroups, hn]

theorem currentGroups_none {s : State} (hn : s.linesLeft.toNat = 0) : currentGroups s = [] := by
  simp [currentGroups, hn, lineGroups]

/-- After a line trailer the next group, where there is one, is the first of those that were to come. -/
theorem currentGroups_endGroup {s : State} (hg : s.params.geometryOk = true) (hl : linesInside s)
    (hn : 1 < s.linesLeft.toNat) : currentGroups (endGroup s) = groupsAfter s := by
  have addr := addr_succ hg hl hn
  have ptr := srcPtr_next hg hl (by omega)
  have left : (s.linesLeft - 1).toNat = s.linesLeft.toNat - 1 := linesLeft_pred (by omega)
  calc currentGroups (endGroup s)
      = lineGroups s.params (s.mem s.srcSpace) (s.addr + 1).toNat (s.srcPtr + BitVec.ofNat 21 s.params.bpr).toNat
          (s.linesLeft - 1).toNat := rfl
    _ = groupsAfter s := by rw [addr, ptr, left]; rfl

theorem groupsAfter_none {s : State} (hn : s.linesLeft.toNat - 1 = 0) : groupsAfter s = [] := by
  simp [groupsAfter, hn, lineGroups]

end Sys2Proof.Machine

/-! SUPPORT. One step of a running sequence emits the first of the events still to come. -/

namespace Sys2Proof.Machine

/-! ### One step -/

/-- The two states stand in the same line of the same frame. -/
structure SameLine (s t : State) : Prop where
  params    : t.params = s.params
  mem       : ∀ sp, t.mem sp = s.mem sp
  srcSpace  : t.srcSpace = s.srcSpace
  addr      : t.addr = s.addr
  srcPtr    : t.srcPtr = s.srcPtr
  linesLeft : t.linesLeft = s.linesLeft

theorem SameLine.currentGroups {s t : State} (h : SameLine s t) : currentGroups t = currentGroups s := by
  simp only [Machine.currentGroups, h.params, h.mem, h.srcSpace, h.addr, h.srcPtr, h.linesLeft]

theorem SameLine.groupsAfter {s t : State} (h : SameLine s t) : groupsAfter t = groupsAfter s := by
  simp only [Machine.groupsAfter, h.params, h.mem, h.srcSpace, h.addr, h.srcPtr, h.linesLeft]

theorem SameLine.restOfLine {s t : State} (h : SameLine s t) :
    restOfLine t = bytesAt (s.mem s.srcSpace) (s.srcPtr.toNat + t.byteIdx.toNat) (s.params.bpr - t.byteIdx.toNat) := by
  simp only [Machine.restOfLine, h.params, h.mem, h.srcSpace, h.srcPtr]

/-- Only a line trailer moves on to another line. -/
theorem SeqEffect.sameLine {s t : State} (h : SeqEffect s t) (hk : s.kind = .write) (hp : s.phase ≠ .t4t) :
    SameLine s t := by
  have f := h.frame
  have r := h.transmit (by simp [hk])
  cases h with
  | powerUp hi | started hi | finished hi => exact nomatch hk.symm.trans hi
  | trailer _ hp' => exact absurd hp' hp
  | _ => exact ⟨f.params, mem_congr r.lb f.fb, f.srcSpace, by simp, by simp, by simp⟩

/-- The step from `s` to `t` emits the first of the events still to come, or none. -/
def EmitsNext (s t : State) : Prop := ∃ es, t.out = s.out ++ es ∧ remaining s = es ++ remaining t

theorem emitsNext_of_event {s t : State} {e : Event} {es : List Event} (ho : t.out = s.out ++ [e])
    (hs : remaining s = e :: es) (ht : remaining t = es) : EmitsNext s t := ⟨[e], ho, by rw [hs, ht]; rfl⟩

theorem emitsNext_of_silent {s t : State} (ho : t.out = s.out) (hr : remaining s = remaining t) : EmitsNext s t :=
  ⟨[], by simp [ho], hr⟩

/-- Row by row of the table: the event is the first of those of R199 still to come. -/
theorem drop_initEvents {p : Params} {ph q : Phase} {e : Event} (h : initMove p ph = some (e, q)) :
    (initEvents p).drop (initEventsDone ph) = e :: (initEvents p).drop (initEventsDone q) := by
  unfold initMove at h
  split at h
  all_goals cases h
  all_goals rfl

theorem SeqEffect.emitsNext {s t : State} (h : SeqEffect s t) (hs : SeqInv s) : EmitsNext s t := by
  have kind := h.frame.kind
  have params := h.frame.params
  have transmits (hk : s.kind ≠ .init) : t.kind ≠ .init := by rwa [kind]
  have same : s.kind = .write → s.phase ≠ .t4t → SameLine s t := h.sameLine
  cases h with
  | select hk hp =>
    rcases kind_of_ne_init hk with hw | hc
    · refine emitsNext_of_event rfl (remaining_write_t1 hw hp) ((remaining_write_t2 (kind.trans hw) rfl).trans ?_)
      rw [params, (same hw (by simp [hp])).currentGroups]
    · refine emitsNext_of_event rfl (remaining_clear_t1 hc hp) ((remaining_clear_t2 (kind.trans hc) rfl).trans ?_)
      rw [params]
  | settle hk hp =>
    rcases kind_of_ne_init hk with hw | hc
    · refine emitsNext_of_event rfl (remaining_write_t2 hw hp) ((remaining_write_t3 (kind.trans hw) rfl).trans ?_)
      rw [params, (same hw (by simp [hp])).currentGroups]
    · refine emitsNext_of_event rfl (remaining_clear_t2 hc hp) ((remaining_clear_t3 (kind.trans hc) rfl).trans ?_)
      rw [params]
  | modeWrite hw hp =>
    refine emitsNext_of_event rfl (remaining_write_t3 hw hp) ?_
    rcases nextGroup_cases s.linesLeft with ⟨hn, next⟩ | ⟨_, next⟩
    · rw [currentGroups_none hn]
      exact (remaining_t5 (transmits (ne_init_of_write hw)) next).trans (by rw [params]; rfl)
    · refine (remaining_t4a (kind.trans hw) next).trans ?_
      rw [params, (same hw (by simp [hp])).currentGroups]
      rfl
  | modeClear hc hp =>
    exact emitsNext_of_event rfl (remaining_clear_t3 hc hp)
      ((remaining_t5 (transmits (ne_init_of_clear hc)) rfl).trans (by rw [params]; rfl))
  | address hw hp =>
    obtain ⟨hn, _⟩ := hs.group hw (.inl hp)
    have group := remaining_t4a hw hp
    have line := same hw (by simp [hp])
    rw [currentGroups_eq hn] at group
    refine emitsNext_of_event rfl group ((remaining_t4d (kind.trans hw) rfl).trans ?_)
    rw [params, line.restOfLine, line.groupsAfter]
    rfl
  | data hw hp inside more =>
    obtain ⟨_, _, hb⟩ := hs.data hw hp
    have now := remaining_t4d hw hp
    have line := same hw (by simp [hp])
    rw [restOfLine, bytesAt_rest _ _ hb, ← byteIdx_succ hs.geometry hb] at now
    refine emitsNext_of_event rfl now ((remaining_t4d (kind.trans hw) hp).trans ?_)
    rw [params, line.restOfLine, line.groupsAfter]
    rfl
  | lastData hw hp inside last =>
    obtain ⟨_, _, hb⟩ := hs.data hw hp
    have noMore : s.params.bpr - (s.byteIdx.toNat + 1) = 0 := by omega
    have now := remaining_t4d hw hp
    have line := same hw (by simp [hp])
    rw [restOfLine, bytesAt_rest _ _ hb, noMore] at now
    refine emitsNext_of_event rfl now ((remaining_t4t (kind.trans hw) rfl).trans ?_)
    rw [params, line.groupsAfter]
    rfl
  | trailer hw hp =>
    obtain ⟨hn, hl⟩ := hs.group hw (.inr hp)
    have left := linesLeft_pred hn
    refine emitsNext_of_event rfl (remaining_t4t hw hp) ?_
    rcases nextGroup_cases (s.linesLeft - 1) with ⟨hz, next⟩ | ⟨hz, next⟩
    · rw [groupsAfter_none (by omega)]
      exact (remaining_t5 (transmits (ne_init_of_write hw)) next).trans (by rw [params]; rfl)
    · have more : 1 < (tx pad s).linesLeft.toNat := show 1 < s.linesLeft.toNat by omega
      have line : SameLine s (tx pad s) := ⟨rfl, mem_congr rfl rfl, rfl, rfl, rfl, rfl⟩
      refine (remaining_t4a (kind.trans hw) next).trans ?_
      rw [params, currentGroups_endGroup (s := tx pad s) hs.geometry hl more, line.groupsAfter]
      rfl
  | frameEnd hk hp =>
    exact emitsNext_of_event rfl (remaining_t5 hk hp) ((remaining_t6 (transmits hk) rfl).trans (by rw [params]))
  | hold hk hp =>
    exact emitsNext_of_event rfl (remaining_t6 hk hp) ((remaining_t7 (transmits hk) rfl).trans (by rw [params]))
  | deselect hk hp =>
    exact emitsNext_of_event rfl (remaining_t7 hk hp) ((remaining_t8 (transmits hk) rfl).trans (by rw [params]))
  | close hk hp => exact emitsNext_of_event rfl (remaining_t8 hk hp) (remaining_idle rfl)
  | powerUp hk e q hm =>
    refine emitsNext_of_event (emit_out e s) ((remaining_init hk).trans (drop_initEvents hm)) ?_
    exact (remaining_init (s := goto q _) (kind.trans hk)).trans (by simp)
  | started hk hp =>
    have before := remaining_init hk
    rw [hp] at before
    exact emitsNext_of_silent rfl (before.trans (remaining_init (s := goto .i4 (startTimer s)) hk).symm)
  | finished hk hp =>
    have before := remaining_init hk
    rw [hp] at before
    exact emitsNext_of_silent rfl (before.trans (remaining_idle (s := finishInit s) rfl).symm)

end Sys2Proof.Machine

/-! SUPPORT. Each step of a running sequence brings its end one nearer (43_transmit.md R162), so a run of as many steps as are
left ends idle, having emitted the events that were still to come. -/

namespace Sys2Proof.Machine

/-! ### The steps still to come, position by position -/

section
variable {s : State}

theorem stepsLeft_idle (hp : s.phase = .idle) : stepsLeft s = 0 := by
  simp only [stepsLeft, hp]

theorem stepsLeft_write_t1 (hk : s.kind = .write) (hp : s.phase = .t1) :
    stepsLeft s = 7 + s.linesLeft.toNat * (s.params.bpr + 2) := by
  simp only [stepsLeft, hk, hp]

theorem stepsLeft_write_t2 (hk : s.kind = .write) (hp : s.phase = .t2) :
    stepsLeft s = 6 + s.linesLeft.toNat * (s.params.bpr + 2) := by
  simp only [stepsLeft, hk, hp]

theorem stepsLeft_write_t3 (hk : s.kind = .write) (hp : s.phase = .t3) :
    stepsLeft s = 5 + s.linesLeft.toNat * (s.params.bpr + 2) := by
  simp only [stepsLeft, hk, hp]

theorem stepsLeft_t4a (hk : s.kind = .write) (hp : s.phase = .t4a) :
    stepsLeft s = 4 + s.linesLeft.toNat * (s.params.bpr + 2) := by
  simp only [stepsLeft, hk, hp]

theorem stepsLeft_t4d (hk : s.kind = .write) (hp : s.phase = .t4d) :
    stepsLeft s = 5 + (s.params.bpr - s.byteIdx.toNat) + (s.linesLeft.toNat - 1) * (s.params.bpr + 2) := by
  simp only [stepsLeft, hk, hp]

theorem stepsLeft_t4t (hk : s.kind = .write) (hp : s.phase = .t4t) :
    stepsLeft s = 5 + (s.linesLeft.toNat - 1) * (s.params.bpr + 2) := by
  simp only [stepsLeft, hk, hp]

theorem stepsLeft_clear_t1 (hk : s.kind = .clear) (hp : s.phase = .t1) : stepsLeft s = 7 := by
  simp only [stepsLeft, hk, hp]

theorem stepsLeft_clear_t2 (hk : s.kind = .clear) (hp : s.phase = .t2) : stepsLeft s = 6 := by
  simp only [stepsLeft, hk, hp]

theorem stepsLeft_clear_t3 (hk : s.kind = .clear) (hp : s.phase = .t3) : stepsLeft s = 5 := by
  simp only [stepsLeft, hk, hp]

theorem stepsLeft_t5 (hk : s.kind ≠ .init) (hp : s.phase = .t5) : stepsLeft s = 4 := by
  rcases kind_of_ne_init hk with hk | hk
  all_goals simp only [stepsLeft, hk, hp]

theorem stepsLeft_t6 (hk : s.kind ≠ .init) (hp : s.phase = .t6) : stepsLeft s = 3 := by
  rcases kind_of_ne_init hk with hk | hk
  all_goals simp only [stepsLeft, hk, hp]

theorem stepsLeft_t7 (hk : s.kind ≠ .init) (hp : s.phase = .t7) : stepsLeft s = 2 := by
  rcases kind_of_ne_init hk with hk | hk
  all_goals simp only [stepsLeft, hk, hp]

theorem stepsLeft_t8 (hk : s.kind ≠ .init) (hp : s.phase = .t8) : stepsLeft s = 1 := by
  rcases kind_of_ne_init hk with hk | hk
  all_goals simp only [stepsLeft, hk, hp]

theorem stepsLeft_init (hk : s.kind = .init) : stepsLeft s = 14 - initStepsDone s.phase := by
  cases hp : s.phase
  all_goals simp only [stepsLeft, hk, hp]
  rfl

end

/-! ### One step -/

/-- The first of `n` line groups of `g` steps, and those after it. -/
theorem group_steps {n : Nat} (hn : n ≠ 0) (g : Nat) : n * g = (n - 1) * g + g := by
  rw [← Nat.succ_mul]
  congr 1
  omega

/-- R162. -/
theorem SeqEffect.stepsLeft {s t : State} (h : SeqEffect s t) (hs : SeqInv s) : stepsLeft t + 1 = stepsLeft s := by
  have kind := h.frame.kind
  have params := h.frame.params
  have transmits (hk : s.kind ≠ .init) : t.kind ≠ .init := by rwa [kind]
  have same : s.kind = .write → s.phase ≠ .t4t → SameLine s t := h.sameLine
  cases h with
  | select hk hp =>
    rcases kind_of_ne_init hk with hw | hc
    · rw [stepsLeft_write_t1 hw hp, stepsLeft_write_t2 (kind.trans hw) rfl, params, (same hw (by simp [hp])).linesLeft]
      omega
    · rw [stepsLeft_clear_t1 hc hp, stepsLeft_clear_t2 (kind.trans hc) rfl]
  | settle hk hp =>
    rcases kind_of_ne_init hk with hw | hc
    · rw [stepsLeft_write_t2 hw hp, stepsLeft_write_t3 (kind.trans hw) rfl, params, (same hw (by simp [hp])).linesLeft]
      omega
    · rw [stepsLeft_clear_t2 hc hp, stepsLeft_clear_t3 (kind.trans hc) rfl]
  | modeWrite hw hp =>
    rw [stepsLeft_write_t3 hw hp]
    rcases nextGroup_cases s.linesLeft with ⟨hn, next⟩ | ⟨_, next⟩
    · rw [stepsLeft_t5 (transmits (ne_init_of_write hw)) next, hn]
      omega
    · rw [stepsLeft_t4a (kind.trans hw) next, params, (same hw (by simp [hp])).linesLeft]
      omega
  | modeClear hc hp =>
    rw [stepsLeft_clear_t3 hc hp, stepsLeft_t5 (transmits (ne_init_of_clear hc)) rfl]
  | address hw hp =>
    obtain ⟨hn, _⟩ := hs.group hw (.inl hp)
    have unrolled := group_steps hn (s.params.bpr + 2)
    have start : (0 : BitVec 13).toNat = 0 := rfl
    rw [stepsLeft_t4a hw hp, stepsLeft_t4d (kind.trans hw) rfl, params, (same hw (by simp [hp])).linesLeft,
      goto_byteIdx, start]
    omega
  | data hw hp =>
    obtain ⟨_, _, hb⟩ := hs.data hw hp
    have next := byteIdx_succ hs.geometry hb
    rw [stepsLeft_t4d hw hp, stepsLeft_t4d (kind.trans hw) hp, params, (same hw (by simp [hp])).linesLeft, next]
    omega
  | lastData hw hp _ last =>
    obtain ⟨_, _, hb⟩ := hs.data hw hp
    rw [stepsLeft_t4d hw hp, stepsLeft_t4t (kind.trans hw) rfl, params, (same hw (by simp [hp])).linesLeft]
    omega
  | trailer hw hp =>
    obtain ⟨hn, _⟩ := hs.group hw (.inr hp)
    have left : (endGroup (tx pad s)).linesLeft.toNat = s.linesLeft.toNat - 1 := linesLeft_pred hn
    rw [stepsLeft_t4t hw hp]
    rcases nextGroup_cases (s.linesLeft - 1) with ⟨hz, next⟩ | ⟨_, next⟩
    · rw [stepsLeft_t5 (transmits (ne_init_of_write hw)) next, ← linesLeft_pred hn, hz]
      omega
    · rw [stepsLeft_t4a (kind.trans hw) next, params, left]
      omega
  | frameEnd hk hp => rw [stepsLeft_t5 hk hp, stepsLeft_t6 (transmits hk) rfl]
  | hold hk hp => rw [stepsLeft_t6 hk hp, stepsLeft_t7 (transmits hk) rfl]
  | deselect hk hp => rw [stepsLeft_t7 hk hp, stepsLeft_t8 (transmits hk) rfl]
  | close hk hp => rw [stepsLeft_t8 hk hp, stepsLeft_idle rfl]
  | powerUp hk e q hm =>
    obtain ⟨next, last, _⟩ := initMove_stepsDone hm
    rw [stepsLeft_init hk, stepsLeft_init (kind.trans hk), goto_phase]
    omega
  | started hk hp => rw [stepsLeft_init hk, stepsLeft_init (s := goto .i4 (startTimer s)) hk, hp]; rfl
  | finished hk hp => rw [stepsLeft_init hk, stepsLeft_idle (s := finishInit s) rfl, hp]; rfl

theorem stepsLeft_ne_zero {s : State} (hs : SeqInv s) (hb : busy s = true) : stepsLeft s ≠ 0 := by
  obtain ⟨t, e⟩ := seqEffect_total hs hb
  have := e.stepsLeft hs
  omega

/-- The block is idle exactly where no step is left. -/
theorem busy_eq_false_iff_stepsLeft {s : State} (hs : SeqInv s) : busy s = false ↔ stepsLeft s = 0 where
  mp hb := stepsLeft_idle ((not_busy_iff s).1 hb)
  mpr hz := Bool.eq_false_iff.2 fun hb => stepsLeft_ne_zero hs hb hz

/-- Settles O31: `seqEffect_total` gives the step, `SeqEffect.stepsLeft` the count. -/
theorem everySequencerStepCountsDown : Obligations.EverySequencerStepCountsDown := by
  unfold Obligations.EverySequencerStepCountsDown
  intro s hi hb
  obtain ⟨t, e⟩ := seqEffect_total hi.seq hb
  exact ⟨t, e.step, e.stepsLeft hi.seq, busy_eq_false_iff_stepsLeft (e.seqInv hi.seq)⟩

end Sys2Proof.Machine

/-! SUPPORT. The whole sequence: run to its end it emits the events that were to come (43_transmit.md R153, R158), which for an
accepted transmit command are the envelope around its frame (30_encoding.md R80, R82, R85). -/

namespace Sys2Proof.Machine

/-! ### A run of the sequencer to its end -/

/-- What a transaction run to its end leaves of a state. -/
structure RanToEnd (s u : State) : Prop where
  idle : u.phase = .idle
  out  : u.out = s.out ++ remaining s
  lb   : u.lb = s.lb
  fb   : u.fb = s.fb

theorem seqRun_to_end {s : State} (hs : SeqInv s) (hk : s.kind ≠ .init) :
    ∃ u, seqRun (stepsLeft s) s = .next u ∧ RanToEnd s u := by
  generalize hn : stepsLeft s = n
  induction n generalizing s with
  | zero =>
    have idle := (not_busy_iff s).1 ((busy_eq_false_iff_stepsLeft hs).2 hn)
    exact ⟨s, rfl, idle, by simp [remaining_idle idle], rfl, rfl⟩
  | succ n ih =>
    have busy : busy s = true := by
      rw [← Bool.not_eq_false, busy_eq_false_iff_stepsLeft hs]
      omega
    obtain ⟨t, e⟩ := seqEffect_total hs busy
    have left := e.stepsLeft hs
    have frame := e.frame
    have transmit := e.transmit hk
    obtain ⟨es, emitted, order⟩ := e.emitsNext hs
    obtain ⟨u, run, idle, out, lb, fb⟩ := ih (e.seqInv hs) (by rwa [frame.kind]) (by omega)
    refine ⟨u, (seqRun_succ_of_step e.step).trans run, idle, ?_, lb.trans transmit.lb, fb.trans frame.fb⟩
    rw [out, emitted, order, List.append_assoc]

/-! ### The frames of the transmit commands -/

theorem seqInv_acceptLines {s : State} {l n : Nat} {sp : Space} {r : Nat} (hg : s.params.geometryOk = true)
    (h : wellFormedRequest s.params l n sp r = true) : SeqInv (acceptLines l n sp r s) :=
  seqInv_head hg Kind.noConfusion (.inl rfl) fun _ => linesInside_acceptLines hg h

/-- With nothing to send the frame names no line, so it does not matter that `ADDR` need not hold one (log 27). -/
theorem currentGroups_acceptLines {s : State} {l n : Nat} {sp : Space} {r : Nat} (hg : s.params.geometryOk = true)
    (h : wellFormedRequest s.params l n sp r = true) :
    currentGroups (acceptLines l n sp r s) = lineGroups s.params (s.mem sp) l ((r - 1) * s.params.bpr) n := by
  obtain ⟨_, lines, addr, ptr, _⟩ := acceptLines_acceptedAs hg h
  have same : currentGroups (acceptLines l n sp r s) =
      lineGroups s.params (s.mem sp) (acceptLines l n sp r s).addr.toNat (acceptLines l n sp r s).srcPtr.toNat
        (acceptLines l n sp r s).linesLeft.toNat := by
    cases sp <;> rfl
  rw [same, lines, ptr]
  cases n with
  | zero => rfl
  | succ n => rw [addr n.succ_ne_zero]

theorem remaining_acceptLines {s : State} {l n : Nat} {sp : Space} {r : Nat} (hg : s.params.geometryOk = true)
    (h : wellFormedRequest s.params l n sp r = true) :
    remaining (acceptLines l n sp r s) = envelope s.params (writeFrame s.params (s.mem sp) l n r) := by
  rw [remaining_write_t1 rfl rfl, currentGroups_acceptLines hg h]
  simp [envelope, writeFrame, sentThenTail, frameTail, acceptLines]

/-- The accepted PANEL.CLEAR (43_transmit.md R157). -/
def acceptClear (s : State) : State := goto .t1 (clearTxFail { s with kind := .clear })

theorem seqInv_acceptClear {s : State} (hg : s.params.geometryOk = true) : SeqInv (acceptClear s) :=
  seqInv_head hg Kind.noConfusion (.inl rfl) Kind.noConfusion

theorem remaining_acceptClear (s : State) : remaining (acceptClear s) = envelope s.params (clearFrame s.params) := rfl

/-- An accepted request runs to its end in the steps of R162. -/
theorem acceptLines_runs {s : State} {l n : Nat} {sp : Space} {r : Nat} (hg : s.params.geometryOk = true)
    (h : wellFormedRequest s.params l n sp r = true) :
    ∃ u, seqRun (7 + n * (s.params.bpr + 2)) (acceptLines l n sp r s) = .next u ∧ u.phase = .idle ∧
      u.out = s.out ++ envelope s.params (writeFrame s.params (s.mem sp) l n r) ∧ u.lb = s.lb ∧ u.fb = s.fb := by
  obtain ⟨_, _, _, _, steps⟩ := acceptLines_acceptedAs hg h
  obtain ⟨u, run, idle, out, lb, fb⟩ := seqRun_to_end (seqInv_acceptLines hg h) Kind.noConfusion
  rw [steps] at run
  rw [remaining_acceptLines hg h] at out
  exact ⟨u, run, idle, out, lb, fb⟩

/-- A well-formed TX.SENDLINES is accepted (43_transmit.md R153). -/
theorem exec_txSendLines_of_wellFormed {s : State} {start count row : U16} {srcsel : Byte} {sp : Space}
    (hsrc : src8 srcsel = some sp) (hlife : s.life = .ready)
    (h : wellFormedRequest s.params start.toNat count.toNat sp row.toNat = true) :
    exec (.txSendLines start count srcsel row) s = .next (acceptLines start.toNat count.toNat sp row.toNat s) :=
  (exec_txSendLines start count row s hsrc).trans (requestLines_of_wellFormed hlife h)

/-- Settles O29. -/
theorem sendLinesEmitsItsFrame : Obligations.SendLinesEmitsItsFrame := by
  unfold Obligations.SendLinesEmitsItsFrame
  intro s start count row sp hi _ hlife h
  obtain ⟨u, run, idle, out, lb, fb⟩ := acceptLines_runs hi.geometry h
  exact ⟨_, u, exec_txSendLines_of_wellFormed (by cases sp <;> rfl) hlife h, run, idle, out, fun a => by rw [lb],
    fun a => by rw [fb]⟩

/-- Settles O30: two requests for lines, and the seven steps of the Clear transaction. -/
theorem wrappersAndClearEmitTheirFrames : Obligations.WrappersAndClearEmitTheirFrames := by
  unfold Obligations.WrappersAndClearEmitTheirFrames
  intro s hi _ hlife
  refine ⟨fun line hlo hhi => ?line, ?panel, ?clear⟩
  case line =>
    have h := (wellFormedRequest_line_iff s.params line.toNat).2 ⟨hlo, hhi⟩
    obtain ⟨u, run, idle, out, _⟩ := acceptLines_runs hi.geometry h
    rw [Nat.one_mul] at run
    exact ⟨_, u, requestLines_of_wellFormed hlife h, run, idle, out⟩
  case panel =>
    obtain ⟨u, run, idle, out, _⟩ := acceptLines_runs hi.geometry (wellFormedRequest_panel s.params)
    exact ⟨_, u, requestLines_of_wellFormed hlife (wellFormedRequest_panel s.params), run, idle, out⟩
  case clear =>
    obtain ⟨u, run, idle, out, _⟩ := seqRun_to_end (seqInv_acceptClear hi.geometry) Kind.noConfusion
    rw [remaining_acceptClear] at out
    exact ⟨_, u, exec_panelClear_of_ready hlife, run, idle, out⟩

/-! ### Every interleaving -/

/-- The trace emitted and still to come, polarity writes apart. -/
def wholeTrace (s : State) : List Event := noPol s.out ++ noPol (remaining s)

theorem SeqEffect.wholeTrace {s t : State} (h : SeqEffect s t) (hs : SeqInv s) : wholeTrace t = wholeTrace s := by
  obtain ⟨es, emitted, order⟩ := h.emitsNext hs
  simp only [Machine.wholeTrace, emitted, order, noPol_append, List.append_assoc]

theorem TimerFrame.wholeTrace {s t : State} (h : TimerFrame s t) : wholeTrace t = wholeTrace s := by
  have same : remaining t = remaining s := by rw [h.eq]; rfl
  rw [Machine.wholeTrace, Machine.wholeTrace, h.noPol, same]

theorem Moved.wholeTrace {s t : State} (h : Moved s t) (hi : Inv s) (hb : busy s = true) : wholeTrace t = wholeTrace s := by
  cases h with
  | held | read => rfl
  | sequenced _ _ _ _ e => exact e.wholeTrace (inv_afterTurn hi).seq
  | ported _ _ hp => exact absurd hp ((busy_iff s).1 hb)
  | ticked => exact (timerMove_effect (afterTurn s)).frame.wholeTrace

/-- Settles O53: the sequencer emits the first of the events still to come, the timer only polarity writes, and the other turns
nothing. -/
theorem everyInterleavingLeavesTheSameTrace : Obligations.EveryInterleavingLeavesTheSameTrace := by
  unfold Obligations.EveryInterleavingLeavesTheSameTrace
  exact fun _ _ hi hb hr h => (step_moved h hr).wholeTrace hi hb

end Sys2Proof.Machine

/-! SUPPORT. Every step keeps the discipline of the output trace (30_encoding.md R80, R89, 44_polarity_timer.md R186): the event a
step emits may stand where the trace stands, and moves it on to where the sequencer stands then. -/

namespace Sys2Proof.Machine

/-! ### The trace position that fits a position of the sequencer -/

section
variable {s : State} {q : TracePos}

theorem posFits_idle_iff (hp : s.phase = .idle) : posFits s q ↔ q = .between := by
  simp only [posFits, hp]

theorem posFits_t1_iff (hk : s.kind ≠ .init) (hp : s.phase = .t1) : posFits s q ↔ q = .between := by
  rcases kind_of_ne_init hk with hk | hk
  all_goals simp only [posFits, hk, hp]

theorem posFits_t2_iff (hk : s.kind ≠ .init) (hp : s.phase = .t2) : posFits s q ↔ q = .selected := by
  rcases kind_of_ne_init hk with hk | hk
  all_goals simp only [posFits, hk, hp]

theorem posFits_t3_iff (hk : s.kind ≠ .init) (hp : s.phase = .t3) : posFits s q ↔ q = .settled := by
  rcases kind_of_ne_init hk with hk | hk
  all_goals simp only [posFits, hk, hp]

theorem posFits_t4a_iff (hk : s.kind = .write) (hp : s.phase = .t4a) :
    posFits s q ↔ ∃ prev, q = .groupStart prev ∧ (prev = 0 ∨ prev + 1 = s.addr.toNat) := by
  simp only [posFits, hk, hp]

theorem posFits_t4d_iff (hk : s.kind = .write) (hp : s.phase = .t4d) :
    posFits s q ↔ q = .lineData s.addr.toNat (s.params.bpr - s.byteIdx.toNat) := by
  simp only [posFits, hk, hp]

theorem posFits_t4t_iff (hk : s.kind = .write) (hp : s.phase = .t4t) : posFits s q ↔ q = .lineEnd s.addr.toNat := by
  simp only [posFits, hk, hp]

theorem posFits_write_t5_iff (hk : s.kind = .write) (hp : s.phase = .t5) : posFits s q ↔ ∃ prev, q = .groupStart prev := by
  simp only [posFits, hk, hp]

theorem posFits_clear_t5_iff (hk : s.kind = .clear) (hp : s.phase = .t5) : posFits s q ↔ q = .clearPad := by
  simp only [posFits, hk, hp]

theorem posFits_t6_iff (hk : s.kind ≠ .init) (hp : s.phase = .t6) : posFits s q ↔ q = .framed := by
  rcases kind_of_ne_init hk with hk | hk
  all_goals simp only [posFits, hk, hp]

theorem posFits_t7_iff (hk : s.kind ≠ .init) (hp : s.phase = .t7) : posFits s q ↔ q = .held := by
  rcases kind_of_ne_init hk with hk | hk
  all_goals simp only [posFits, hk, hp]

theorem posFits_t8_iff (hk : s.kind ≠ .init) (hp : s.phase = .t8) : posFits s q ↔ q = .deselected := by
  rcases kind_of_ne_init hk with hk | hk
  all_goals simp only [posFits, hk, hp]

theorem posFits_init_iff (hk : s.kind = .init) : posFits s q ↔ q = .between := by
  cases hp : s.phase
  all_goals simp only [posFits, hk, hp]

end

/-! ### One event more -/

theorem tracePos_append (p : Params) (q : TracePos) (a b : List Event) :
    tracePos p q (a ++ b) = (tracePos p q a).bind fun q' => tracePos p q' b := by
  induction a generalizing q with
  | nil => rfl
  | cons e es ih =>
    simp only [List.cons_append, tracePos]
    cases advance p q e with
    | some q' => exact ih q'
    | none => rfl

/-- From `q`, where the trace of `s` stands, that of `t` goes on to where the sequencer of `t` stands. -/
def Continues (s t : State) (q : TracePos) : Prop :=
  ∃ es q', t.out = s.out ++ es ∧ tracePos s.params q es = some q' ∧ posFits t q'

theorem continues_of_event {s t : State} {q : TracePos} (e : Event) (q' : TracePos) (ho : t.out = s.out ++ [e])
    (ha : advance s.params q e = some q') (hf : posFits t q') : Continues s t q :=
  ⟨[e], q', ho, by simp only [tracePos, ha], hf⟩

theorem continues_of_silent {s t : State} {q : TracePos} (ho : t.out = s.out) (hf : posFits t q) : Continues s t q :=
  ⟨[], q, by simp [ho], rfl, hf⟩

theorem Continues.traceInv {s t : State} {q : TracePos} (h : Continues s t q) (params : t.params = s.params)
    (hq : tracePos s.params .between s.out = some q) : TraceInv t := by
  obtain ⟨es, q', out, steps, fits⟩ := h
  refine ⟨q', ?_, fits⟩
  rw [params, out, tracePos_append, hq]
  exact steps

/-! ### The bytes of a frame -/

section
variable {p : Params}

theorem advanceTx_modeWrite : advanceTx p .settled p.modeWrite = some (.groupStart 0) := by simp [advanceTx]

theorem advanceTx_modeClear (h : p.modeWrite ≠ p.modeClear) : advanceTx p .settled p.modeClear = some .clearPad := by
  simp [advanceTx, h.symm]

/-- An address byte is no padding, since no line is line 0 (30_encoding.md R84). -/
theorem rev8_ne_pad {a : Byte} (h : 1 ≤ a.toNat) : rev8 a ≠ pad := by
  intro same
  have zero : a = rev8 pad := by rw [← same, rev8_rev8]
  rw [zero] at h
  exact absurd h (by decide)

theorem advanceTx_address {a : Byte} {prev : Nat} (low : 1 ≤ a.toNat) (high : a.toNat ≤ p.height)
    (next : prev = 0 ∨ prev + 1 = a.toNat) :
    advanceTx p (.groupStart prev) (rev8 a) = some (.lineData a.toNat p.bpr) := by
  have follows : prev = 0 ∨ a.toNat = prev + 1 := next.imp_right Eq.symm
  simp only [advanceTx, rev8_ne_pad low, rev8_rev8, follows, high, and_self, if_true, if_false]

theorem advanceTx_data (p : Params) (line : Nat) (b : Byte) {left : Nat} (h : 2 ≤ left) :
    advanceTx p (.lineData line left) b = some (.lineData line (left - 1)) := by
  have h0 : left ≠ 0 := by omega
  have h1 : left ≠ 1 := by omega
  simp only [advanceTx, h0, h1, if_false]

theorem advanceDelay_setup : advanceDelay p .selected p.tSetup = some .settled := if_pos rfl

theorem advanceDelay_hold : advanceDelay p .framed p.tHold = some .held := if_pos rfl

theorem advanceDelay_iframe : advanceDelay p .deselected p.tIframe = some .between := if_pos rfl

theorem advance_pol {q : TracePos} {v : Level} (h : p.polArb = .free ∨ q.outsideWindow = true) :
    advance p q (.pin .pol v) = some q := if_pos h

end

/-- The events of the power-up sequence all stand between transactions. -/
theorem advance_initMove {p : Params} {ph q : Phase} {e : Event} (h : initMove p ph = some (e, q)) :
    advance p .between e = some .between := by
  unfold initMove at h
  split at h
  all_goals cases h
  case h_8 | h_11 => exact advance_pol (.inr rfl)
  all_goals rfl

/-! ### The sequencer -/

/-- Position by position, the events of 43_transmit.md R153, R158 and 45_lifecycle.md R196. -/
theorem SeqEffect.continues {s t : State} (h : SeqEffect s t) (hs : SeqInv s) (modes : s.params.modeWrite ≠ s.params.modeClear)
    {q : TracePos} (hq : posFits s q) : Continues s t q := by
  have kind := h.frame.kind
  have params := h.frame.params
  have transmits (hk : s.kind ≠ .init) : t.kind ≠ .init := by rwa [kind]
  have same : s.kind = .write → s.phase ≠ .t4t → SameLine s t := h.sameLine
  cases h with
  | select hk hp =>
    obtain rfl := (posFits_t1_iff hk hp).1 hq
    exact continues_of_event _ .selected rfl rfl ((posFits_t2_iff (transmits hk) rfl).2 rfl)
  | settle hk hp =>
    obtain rfl := (posFits_t2_iff hk hp).1 hq
    exact continues_of_event _ .settled rfl advanceDelay_setup ((posFits_t3_iff (transmits hk) rfl).2 rfl)
  | modeWrite hw hp =>
    obtain rfl := (posFits_t3_iff (ne_init_of_write hw) hp).1 hq
    refine continues_of_event _ (.groupStart 0) rfl advanceTx_modeWrite ?_
    rcases nextGroup_cases s.linesLeft with ⟨_, next⟩ | ⟨_, next⟩
    · exact (posFits_write_t5_iff (kind.trans hw) next).2 ⟨0, rfl⟩
    · exact (posFits_t4a_iff (kind.trans hw) next).2 ⟨0, rfl, .inl rfl⟩
  | modeClear hc hp =>
    obtain rfl := (posFits_t3_iff (ne_init_of_clear hc) hp).1 hq
    exact continues_of_event _ .clearPad rfl (advanceTx_modeClear modes) ((posFits_clear_t5_iff (kind.trans hc) rfl).2 rfl)
  | address hw hp =>
    obtain ⟨hn, hl⟩ := hs.group hw (.inl hp)
    obtain ⟨low, lines, _⟩ := linesInside_of_lines hl hn
    obtain ⟨prev, rfl, next⟩ := (posFits_t4a_iff hw hp).1 hq
    refine continues_of_event _ _ rfl (advanceTx_address low (by omega) next) ((posFits_t4d_iff (kind.trans hw) rfl).2 ?_)
    rw [params]
    rfl
  | data hw hp _ notLast =>
    obtain ⟨_, _, hb⟩ := hs.data hw hp
    obtain rfl := (posFits_t4d_iff hw hp).1 hq
    have more := advanceTx_data s.params s.addr.toNat ((s.mem s.srcSpace).read (dataOffset s))
      (left := s.params.bpr - s.byteIdx.toNat) (by omega)
    refine continues_of_event (.tx _) _ rfl more ((posFits_t4d_iff (kind.trans hw) hp).2 ?_)
    rw [params, (same hw (by simp [hp])).addr, byteIdx_succ hs.geometry hb, Nat.sub_sub]
  | lastData hw hp _ last =>
    obtain ⟨_, _, hb⟩ := hs.data hw hp
    have one : s.params.bpr - s.byteIdx.toNat = 1 := by omega
    obtain rfl := (posFits_t4d_iff hw hp).1 hq
    rw [one]
    refine continues_of_event _ (.lineEnd s.addr.toNat) rfl rfl ((posFits_t4t_iff (kind.trans hw) rfl).2 ?_)
    rw [(same hw (by simp [hp])).addr]
  | trailer hw hp =>
    obtain ⟨hn, hl⟩ := hs.group hw (.inr hp)
    obtain rfl := (posFits_t4t_iff hw hp).1 hq
    refine continues_of_event _ (.groupStart s.addr.toNat) rfl rfl ?_
    rcases nextGroup_cases (s.linesLeft - 1) with ⟨_, next⟩ | ⟨hn', next⟩
    · exact (posFits_write_t5_iff (kind.trans hw) next).2 ⟨_, rfl⟩
    · have more : 1 < s.linesLeft.toNat := by
        rw [linesLeft_pred hn] at hn'
        omega
      exact (posFits_t4a_iff (kind.trans hw) next).2 ⟨_, rfl, .inr (addr_succ hs.geometry hl more).symm⟩
  | frameEnd hk hp =>
    have framed := (posFits_t6_iff (s := goto .t6 (tx pad s)) (transmits hk) rfl).2 rfl
    rcases kind_of_ne_init hk with hw | hc
    · obtain ⟨prev, rfl⟩ := (posFits_write_t5_iff hw hp).1 hq
      exact continues_of_event _ .framed rfl rfl framed
    · obtain rfl := (posFits_clear_t5_iff hc hp).1 hq
      exact continues_of_event _ .framed rfl rfl framed
  | hold hk hp =>
    obtain rfl := (posFits_t6_iff hk hp).1 hq
    exact continues_of_event _ .held rfl advanceDelay_hold ((posFits_t7_iff (transmits hk) rfl).2 rfl)
  | deselect hk hp =>
    obtain rfl := (posFits_t7_iff hk hp).1 hq
    exact continues_of_event _ .deselected rfl rfl ((posFits_t8_iff (transmits hk) rfl).2 rfl)
  | close hk hp =>
    obtain rfl := (posFits_t8_iff hk hp).1 hq
    exact continues_of_event _ .between rfl advanceDelay_iframe ((posFits_idle_iff rfl).2 rfl)
  | powerUp hk e _ hm =>
    obtain rfl := (posFits_init_iff hk).1 hq
    exact continues_of_event e .between (emit_out e s) (advance_initMove hm) ((posFits_init_iff (kind.trans hk)).2 rfl)
  | started hk =>
    obtain rfl := (posFits_init_iff hk).1 hq
    exact continues_of_silent rfl ((posFits_init_iff (s := goto .i4 (startTimer s)) hk).2 rfl)
  | finished hk =>
    obtain rfl := (posFits_init_iff hk).1 hq
    exact continues_of_silent rfl ((posFits_idle_iff (s := finishInit s) rfl).2 rfl)

/-! ### The timer -/

/-- While the lock is free the trace stands outside the select window (10_state.md R31). -/
theorem outsideWindow_of_free {s : State} (hs : SeqInv s) {q : TracePos} (hq : posFits s q) (free : lockOf s = .free) :
    q.outsideWindow = true := by
  have fits := hs.phaseFits
  by_cases hk : s.kind = .init
  · rw [(posFits_init_iff hk).1 hq]
    rfl
  have outside : inSelectWindow s.phase = false :=
    Bool.eq_false_iff.2 fun inside => nomatch free.symm.trans (lockOf_of_inside hk inside)
  cases hp : s.phase with
  | idle => rw [(posFits_idle_iff hp).1 hq]; rfl
  | t1 => rw [(posFits_t1_iff hk hp).1 hq]; rfl
  | t8 => rw [(posFits_t8_iff hk hp).1 hq]; rfl
  | t2 | t3 | t4a | t4d | t4t | t5 | t6 | t7 => exact absurd outside (by rw [hp]; decide)
  | _ => rcases kind_of_ne_init hk with h | h <;> simp [phaseFits, h, hp] at fits

/-- R186: under `LOCKED` a toggle is enabled only where the lock is free. -/
theorem TimerEffect.continues {s t : State} (h : TimerEffect s t) (hs : SeqInv s) {q : TracePos} (hq : posFits s q) :
    Continues s t q := by
  have fits : posFits t q := by rw [h.frame.eq]; exact hq
  rcases h.polarity with ⟨out, _⟩ | ⟨enabled, out, _⟩
  · exact continues_of_silent out fits
  · obtain ⟨_, allowed⟩ := (polEnabled_iff s).1 enabled
    exact continues_of_event _ q out (advance_pol (allowed.imp_right (outsideWindow_of_free hs hq))) fits

/-! ### Commands and the port -/

/-- A command leaves the block idle or at the first position of a sequence. -/
theorem Effect.posFits_between {s t : State} (h : Effect s t) (hp : s.phase = .idle) : posFits t .between := by
  cases h with
  | linesAccepted | clearAccepted => exact (posFits_t1_iff Kind.noConfusion rfl).2 rfl
  | wrote sp | filled sp => cases sp <;> exact (posFits_idle_iff hp).2 rfl
  | initAnswered =>
    cases s.env.periphAnswer with
    | true => exact (posFits_init_iff rfl).2 rfl
    | false => exact (posFits_idle_iff hp).2 rfl
  | rejected | dropped | imageBad | imageLoaded => exact (posFits_idle_iff hp).2 rfl

theorem PortEffect.continues {s t : State} (h : PortEffect s t) (hp : s.phase = .idle) {q : TracePos} (hq : posFits s q) :
    Continues s t q := by
  obtain rfl := (posFits_idle_iff hp).1 hq
  refine continues_of_silent h.frame.out ?_
  cases h with
  | waits | takes | rejects => exact (posFits_idle_iff hp).2 rfl
  | runs _ _ _ _ _ _ _ e => exact e.posFits_between hp

/-! ### Every step -/

theorem Moved.traceInv {s t : State} (h : Moved s t) (hi : Inv s) (ht : TraceInv s) : TraceInv t := by
  obtain ⟨q, stands, fits⟩ := ht
  have turned : tracePos (afterTurn s).params .between (afterTurn s).out = some q := stands
  have there : posFits (afterTurn s) q := fits
  have inv := inv_afterTurn hi
  cases h with
  | held | read => exact ⟨q, stands, fits⟩
  | sequenced _ _ _ _ e => exact (e.continues inv.seq (legal_facts hi.legal).2.1 there).traceInv e.frame.params turned
  | ported _ _ hp _ e => exact (e.continues hp there).traceInv e.frame.params turned
  | ticked =>
    have e := timerMove_effect (afterTurn s)
    exact (e.continues inv.seq there).traceInv (by rw [e.frame.eq]) turned

/-- Settles O52: one lemma for each agent; hardware reset empties the trace. -/
theorem stepKeepsTheTraceDiscipline : Obligations.StepKeepsTheTraceDiscipline := by
  unfold Obligations.StepKeepsTheTraceDiscipline
  intro s t hi ht h
  by_cases hr : nextTurn s = .reset
  · rw [step_of_reset_turn hi.geometry hr] at h
    cases h
    exact traceInv_resetWith s.params _
  · exact (step_moved h hr).traceInv hi ht

end Sys2Proof.Machine

/-! SUPPORT. Runs of the whole machine: after a transmit command with nothing more written the trace to come is the same under
every schedule (44_polarity_timer.md R187, R188), and in a fair run every sequence ends (R188). -/

namespace Sys2Proof.Machine

/-! ### A transmit command under every schedule -/

/-- The step draws the next turn of the schedule and no other (log 7). -/
theorem Moved.turns {s t : State} (h : Moved s t) : t.env.turns = s.env.turns.tail := by
  cases h with
  | held | read => rfl
  | sequenced _ _ _ _ e => exact e.frame.turns
  | ported _ _ _ _ e => exact e.frame.turns
  | ticked =>
    rw [(timerMove_effect (afterTurn s)).frame.eq]
    rfl

theorem nextTurn_ne_reset {s : State} (h : ∀ x ∈ s.env.turns, x ≠ .reset) : nextTurn s ≠ .reset := by
  unfold nextTurn
  split
  · next turn _ hturns => exact h turn (by simp [hturns])
  · split <;> exact Turn.noConfusion

/-- With nothing at the port and no reset to come, the whole trace is `es`, polarity writes apart. -/
structure Emitting (es : List Event) (s : State) : Prop where
  inv   : Inv s
  cmdIn : s.env.cmdIn = []
  cbuf  : s.cbuf = []
  turns : ∀ x ∈ s.env.turns, x ≠ .reset
  trace : wholeTrace s = es

theorem wholeTrace_of_idle {s : State} (h : s.phase = .idle) : wholeTrace s = noPol s.out := by
  rw [wholeTrace, remaining_idle h]
  exact List.append_nil _

/-- While the block is busy the port is left alone (O9) and the trace keeps its course (O53); once it is idle the run has
ended (O56). -/
theorem Emitting.step {es : List Event} {s t : State} (hs : Emitting es s) (h : step s = .next t) : Emitting es t := by
  obtain ⟨inv, cmdIn, cbuf, turns, trace⟩ := hs
  have noReset := nextTurn_ne_reset turns
  have moved := step_moved h noReset
  have later : ∀ x ∈ t.env.turns, x ≠ .reset := by
    rw [moved.turns]
    exact fun x hx => turns x (List.mem_of_mem_tail hx)
  cases hb : busy s with
  | true =>
    obtain ⟨port, assembly, _⟩ := busyBlockKeepsPortAndBuffers s t hb noReset h
    exact ⟨moved.inv inv, port.trans cmdIn, assembly.trans cbuf, later, (moved.wholeTrace inv hb).trans trace⟩
  | false =>
    have idle := (not_busy_iff s).1 hb
    obtain ⟨stays, _, _, _, out⟩ := endedRunsStayEnded s t ((ended_iff s).2 ⟨cmdIn, cbuf, idle⟩) noReset h
    obtain ⟨cmdIn', cbuf', idle'⟩ := (ended_iff t).1 stays
    refine ⟨moved.inv inv, cmdIn', cbuf', later, ?_⟩
    rw [← trace, wholeTrace_of_idle idle', wholeTrace_of_idle idle, out]

theorem run_succ_next {k : Nat} {s u : State} (h : Host.Core.run core (k + 1) s = .next u) :
    ∃ t, step s = .next t ∧ Host.Core.run core k t = .next u := by
  cases ht : step s with
  | next t => exact ⟨t, rfl, by simpa only [Host.Core.run, show core.step s = .next t from ht] using h⟩
  | fault r => simp only [Host.Core.run, show core.step s = .fault r from ht, reduceCtorEq] at h
  | refused r => simp only [Host.Core.run, show core.step s = .refused r from ht, reduceCtorEq] at h

theorem Emitting.run {es : List Event} {k : Nat} {s u : State} (hs : Emitting es s)
    (h : Host.Core.run core k s = .next u) : Emitting es u := by
  induction k generalizing s with
  | zero => cases h; exact hs
  | succ k ih =>
    obtain ⟨t, ht, rest⟩ := run_succ_next h
    exact ih (hs.step ht) rest

/-- An envelope holds no polarity write. -/
theorem noPol_envelope (p : Params) (frame : List Byte) : noPol (envelope p frame) = envelope p frame := by
  simp [noPol, envelope, envelopeEnd, Event.isPol]

/-- An accepted command with the envelope of `frame` still to come. -/
theorem emitsUnderEverySchedule_of_accepted {s t : State} {i : Instr} {frame : List Byte} (hi : Inv s)
    (hp : s.phase = .idle) (hc : s.cbuf = []) (hq : s.env.cmdIn = []) (h : exec i s = .next t)
    (hr : remaining t = envelope s.params frame) : EmitsUnderEverySchedule i frame s := by
  intro t' u k h' turns run idle
  obtain rfl : t = t' := by simpa using h.symm.trans h'
  have e := exec_next h
  obtain ⟨cbuf, cmdIn⟩ := e.port
  have trace : wholeTrace t = noPol s.out ++ envelope s.params frame := by
    rw [wholeTrace, e.frame.out, hr, noPol_envelope]
  have start : Emitting (noPol s.out ++ envelope s.params frame) t :=
    ⟨e.inv hi hp hc, cmdIn.trans hq, cbuf.trans hc, turns, trace⟩
  rw [← wholeTrace_of_idle idle, (start.run run).trace]

/-- Settles O54: what each command has still to emit at its acceptance is the envelope around its frame. -/
theorem flushEmitsItsFrameUnderEverySchedule : Obligations.FlushEmitsItsFrameUnderEverySchedule := by
  unfold Obligations.FlushEmitsItsFrameUnderEverySchedule
  intro s hi hp hlife hc hq
  have accepted {t : State} {i : Instr} {frame : List Byte} (h : exec i s = .next t)
      (hr : remaining t = envelope s.params frame) : EmitsUnderEverySchedule i frame s :=
    emitsUnderEverySchedule_of_accepted hi hp hc hq h hr
  refine ⟨fun start count row sp h => ?lines, fun line hlo hhi => ?line, ?panel, ?clear⟩
  case lines =>
    exact accepted (exec_txSendLines_of_wellFormed (by cases sp <;> rfl) hlife h) (remaining_acceptLines hi.geometry h)
  case line =>
    have h := (wellFormedRequest_line_iff s.params line.toNat).2 ⟨hlo, hhi⟩
    exact accepted (requestLines_of_wellFormed hlife h) (remaining_acceptLines hi.geometry h)
  case panel =>
    have h := wellFormedRequest_panel s.params
    exact accepted (requestLines_of_wellFormed hlife h) (remaining_acceptLines hi.geometry h)
  case clear => exact accepted (exec_panelClear_of_ready hlife) (remaining_acceptClear s)

/-! ### Fair runs -/

theorem inv_of_isRun {r : Nat → State} (hrun : IsRun r) (hi : Inv (r 0)) (n : Nat) : Inv (r n) := by
  induction n with
  | zero => exact hi
  | succ n ih => exact step_inv ih (hrun n)

/-- Hardware reset leaves the block idle (10_state.md R34). -/
theorem idle_of_reset_turn {s t : State} (hi : Inv s) (hr : nextTurn s = .reset) (h : step s = .next t) :
    busy t = false := by
  rw [step_of_reset_turn hi.geometry hr] at h
  cases h
  rfl

/-- No step but the sequencer's touches what is left of a running sequence. -/
theorem Moved.stepsLeft_le {s t : State} (h : Moved s t) (hi : Inv s) (hb : busy s = true) :
    stepsLeft t ≤ stepsLeft s := by
  cases h with
  | held | read => exact le_rfl
  | sequenced _ _ _ _ e =>
    have left : stepsLeft t + 1 = stepsLeft s := e.stepsLeft (inv_afterTurn hi).seq
    omega
  | ported _ _ hp => exact absurd hp ((busy_iff s).1 hb)
  | ticked =>
    rw [(timerMove_effect (afterTurn s)).frame.eq]
    exact le_rfl

theorem stepsLeft_of_sequencerMoves {s t : State} (hi : Inv s) (hm : sequencerMoves s) (h : step s = .next t) :
    stepsLeft t + 1 = stepsLeft s := by
  obtain ⟨main, busy, free⟩ := hm
  rw [step_of_main_turn hi.geometry main, mainMove_of_busy (s := afterTurn s) free busy] at h
  exact (seqStep_next h).stepsLeft (inv_afterTurn hi).seq

/-- While the block stays busy the steps left never grow, and each step of the sequencer takes one off. -/
theorem idle_again {r : Nat → State} (hrun : IsRun r) (hi : ∀ n, Inv (r n)) (fair : SequencerFair r) (k n : Nat)
    (hk : stepsLeft (r n) ≤ k) : ∃ m, n ≤ m ∧ busy (r m) = false := by
  induction k generalizing n with
  | zero => exact ⟨n, le_rfl, (busy_eq_false_iff_stepsLeft (hi n).seq).2 (by omega)⟩
  | succ k ih =>
    by_contra never
    have busy (m : Nat) (hm : n ≤ m) : busy (r m) = true :=
      Bool.not_eq_false _ ▸ fun idle => never ⟨m, hm, idle⟩
    have shrinks (m : Nat) (hm : n ≤ m) : stepsLeft (r m) ≤ stepsLeft (r n) := by
      induction m, hm using Nat.le_induction with
      | base => exact le_rfl
      | succ m hm before =>
        have noReset (hr : nextTurn (r m) = .reset) : False :=
          never ⟨m + 1, by omega, idle_of_reset_turn (hi m) hr (hrun m)⟩
        exact ((step_moved (hrun m) noReset).stepsLeft_le (hi m) (busy m hm)).trans before
    obtain ⟨m, hm, moves⟩ := fair n busy
    have taken := stepsLeft_of_sequencerMoves (hi m) moves (hrun m)
    have bound := shrinks m hm
    obtain ⟨m', hm', idle⟩ := ih (m + 1) (by omega)
    exact never ⟨m', by omega, idle⟩

/-- After a toggle the next half-period runs (44_polarity_timer.md R184). -/
theorem not_due_after_toggle {s : State} (hi : Inv s) (hf : s.params.form = .timed) : polDueNow (polToggle s) = false := by
  have period := (legal_facts hi.legal).2.2.2.2.2
  rw [polToggle_timed hf]
  exact not_due_of_counting rfl (show s.params.tPol ≠ 0 by omega)

theorem toggle_happens {s t : State} (hi : Inv s) (due : polDueNow s = true) (ht : nextTurn s = .timer)
    (h : step s = .next t) : polDueNow t = false := by
  have dueNow : polDueNow (afterTurn s) = true := due
  rw [step_of_timer_turn hi.geometry ht, timerMove_of_due dueNow] at h
  cases h
  exact not_due_after_toggle (inv_afterTurn hi) ((halfPeriodOver_iff s).1 ((polDueNow_iff s).1 due).1).1

/-- Settles O55: the steps left of a sequence that never ended would sink below zero, and a toggle that stayed due for ever
would happen at the timer's next turn. -/
theorem fairRunsFinishTheirSequences : Obligations.FairRunsFinishTheirSequences := by
  unfold Obligations.FairRunsFinishTheirSequences
  intro r hrun start fair
  have hi := inv_of_isRun hrun start
  refine ⟨fun n => idle_again hrun hi fair.sequencer _ n le_rfl, fun n => ?toggle⟩
  by_contra never
  have due (m : Nat) (hm : n ≤ m) : polDueNow (r m) = true :=
    Bool.not_eq_false _ ▸ fun calm => never ⟨m, hm, calm⟩
  obtain ⟨m, hm, turn⟩ := fair.timer n due
  exact never ⟨m + 1, by omega, toggle_happens (hi m) (due m hm) turn (hrun m)⟩

end Sys2Proof.Machine

/-! SUPPORT. The order of the bits on the serial wire (30_encoding.md R87, 00_scope.md R9). -/

namespace Sys2Proof.Machine

theorem wireBits_rev8 (a : Byte) : wireBits (rev8 a) = (List.range 8).map fun i => a.getLsbD i := by
  refine List.map_congr_left fun i hi => ?_
  have low : i < 8 := List.mem_range.1 hi
  have mirrored : 7 - (7 - i) = i := by omega
  rw [getLsbD_rev8 a (by omega), mirrored]

/-- `n` groups of `k` in a row are numbered through. -/
theorem flatMap_range_eq_map {α : Type} (f : Nat → Nat → α) {k : Nat} (hk : 0 < k) (n : Nat) :
    (List.range n).flatMap (fun j => (List.range k).map (f j)) =
      (List.range (k * n)).map fun c => f (c / k) (c % k) := by
  induction n with
  | zero => rfl
  | succ n ih =>
    have last : (List.range k).map (f n) = (List.range k).map fun i => f ((k * n + i) / k) ((k * n + i) % k) := by
      refine List.map_congr_left fun i hi => ?_
      have low : i < k := List.mem_range.1 hi
      rw [Nat.mul_add_div hk, Nat.div_eq_of_lt low, Nat.mul_add_mod, Nat.mod_eq_of_lt low, Nat.add_zero]
    rw [List.range_succ, List.flatMap_append, ih, List.flatMap_singleton, last, Nat.mul_succ, List.range_add,
      List.map_append, List.map_map]
    rfl

/-- Bit `c` of the bytes on the wire is bit `7 - c % 8` of byte `c / 8`. -/
theorem flatMap_wireBits_bytesAt (m : Memory) (off n : Nat) : (bytesAt m off n).flatMap wireBits =
    (List.range (8 * n)).map fun c => (m.read (off + c / 8)).getLsbD (7 - c % 8) :=
  calc (bytesAt m off n).flatMap wireBits
      = (List.range n).flatMap fun j => (List.range 8).map fun i => (m.read (off + j)).getLsbD (7 - i) :=
        List.flatMap_map ..
    _ = (List.range (8 * n)).map fun c => (m.read (off + c / 8)).getLsbD (7 - c % 8) :=
        flatMap_range_eq_map _ (by decide) _

/-- Settles O49: a pixel stands in the buffer where `flatMap_wireBits_bytesAt` finds it (10_state.md R20). -/
theorem wireOrderOfAddressAndPixels : Obligations.WireOrderOfAddressAndPixels := by
  unfold Obligations.WireOrderOfAddressAndPixels
  exact ⟨wireBits_rev8, fun s sp r => flatMap_wireBits_bytesAt (s.mem sp) ((r - 1) * s.params.bpr) s.params.bpr⟩

end Sys2Proof.Machine
